-- ==== Sys2Proof/Word.lean ====
section
/-! DEFINITION. The words of the codec/framer: bytes, 16-bit status words, 32-bit register values, and the
indices of the two register banks (00_scope.md R7, R9, R10). Bit 0 is the least significant bit everywhere (R10). -/

namespace Sys2Proof

/-- A byte, 8 bits (R9). -/
abbrev Byte := BitVec 8

/-- A 16-bit word: the status word (R7). -/
abbrev Half := BitVec 16

/-- A 32-bit word: a configuration register or a raw result (R7, R10). -/
abbrev Word := BitVec 32

/-- The index of a configuration register, 0 to 6 (R7: `NREG = 7`). -/
abbrev Reg := Fin 7

/-- The index of a result register, 0 to 3 (R7: `NRES = 4`). -/
abbrev ResultReg := Fin 4

end Sys2Proof
end

