-- ==== Sys2Proof/Config.lean ====
section
/-! DEFINITION. What is fixed before the machine runs: the named fields with the widths the source gives (00_scope.md R7), the
parameters it leaves open (R8), and the free values (R8 `STAT_RESET`, `RESP`; 93_implementation_defined.md U4). The constants
and the defaults of the parameters are in Machine/Defaults.lean. -/

namespace Sys2Proof

/-- The named fields of the image, in the order of the table of 10_state.md R27. -/
inductive Field where
  | startEdge | stop1Edge | stop2Edge | mm | prediv | hitin1 | hitin2 | hitop1 | hitop2
  | stop1Both | stop2Both | delrel1 | delrel2 | delrel3 | offs | offsNeg20 | offsPos20 | double | quad
deriving DecidableEq, Repr

/-- Every named field once. -/
def Field.all : List Field :=
  [.startEdge, .stop1Edge, .stop2Edge, .mm, .prediv, .hitin1, .hitin2, .hitop1, .hitop2,
   .stop1Both, .stop2Both, .delrel1, .delrel2, .delrel3, .offs, .offsNeg20, .offsPos20, .double, .quad]

/-- The width of each field, which the source fixes (R27, column "width (source)"). -/
def Field.width : Field → Nat
  | .prediv => 2
  | .hitin1 | .hitin2 => 3
  | .hitop1 | .hitop2 => 4
  | .delrel1 | .delrel2 | .delrel3 => 6
  | .offs => 5
  | .startEdge | .stop1Edge | .stop2Edge | .mm | .stop1Both | .stop2Both
  | .offsNeg20 | .offsPos20 | .double | .quad => 1

/-- A field descriptor `(reg, lsb, width)` (00_scope.md R12, 40_field_engine.md R110). -/
structure Desc where
  reg : Reg
  lsb : Nat
  width : Nat
deriving DecidableEq, Repr

/-- `FIELD_MAP`: one descriptor per named field (10_state.md R27). -/
structure FieldMap where
  startEdge : Desc
  stop1Edge : Desc
  stop2Edge : Desc
  mm : Desc
  prediv : Desc
  hitin1 : Desc
  hitin2 : Desc
  hitop1 : Desc
  hitop2 : Desc
  stop1Both : Desc
  stop2Both : Desc
  delrel1 : Desc
  delrel2 : Desc
  delrel3 : Desc
  offs : Desc
  offsNeg20 : Desc
  offsPos20 : Desc
  double : Desc
  quad : Desc
deriving DecidableEq, Repr

/-- The descriptor a map gives a field. -/
def FieldMap.desc (m : FieldMap) : Field → Desc
  | .startEdge => m.startEdge
  | .stop1Edge => m.stop1Edge
  | .stop2Edge => m.stop2Edge
  | .mm => m.mm
  | .prediv => m.prediv
  | .hitin1 => m.hitin1
  | .hitin2 => m.hitin2
  | .hitop1 => m.hitop1
  | .hitop2 => m.hitop2
  | .stop1Both => m.stop1Both
  | .stop2Both => m.stop2Both
  | .delrel1 => m.delrel1
  | .delrel2 => m.delrel2
  | .delrel3 => m.delrel3
  | .offs => m.offs
  | .offsNeg20 => m.offsNeg20
  | .offsPos20 => m.offsPos20
  | .double => m.double
  | .quad => m.quad

/-- The parameters the source leaves open and the model takes as an argument (00_scope.md R8); `STAT_RESET` and `RESP`
are the free values below. -/
structure Params where
  /-- `FIELD_MAP` (R27, decision D2). -/
  map : FieldMap
  /-- `DUMMY`, the byte sent in the payload positions of a read frame (decision D16). -/
  dummy : Byte
  /-- `PREDIV_CODE_4`, the raw code the setter stores for divider 4 (42_clock_predivider.md R152, decision D10). -/
  predivCode4 : Nat
  /-- `PUSH_ORDER`, the order in which PUSH_CONFIG writes the registers (47_transactions.md R236, decision D18). -/
  pushOrder : List Reg
deriving DecidableEq, Repr

namespace Config

/-- `RESP`: the byte the transport returns for the transfer drawn as number n, where the state's script of replies gives
none (20_memory.md R64, decision D27). A free value: no body, nothing can be proved of it. -/
opaque resp : Nat → Byte

/-- `STAT_RESET`: the status snapshot before the first READ_STATUS, for the n-th draw (10_state.md R31, decision D20).
A free value. -/
opaque statReset : Nat → Half

/-- What GET_OFFSET returns when both extension flags read 1, for the n-th draw (45_signed_offset.md R204, decision D14).
A free value. -/
opaque freeOffset : Nat → Int

end Config
end Sys2Proof
end

