-- ==== Sys2Proof/Syntax.lean ====
section
/-! DEFINITION. The instructions: one constructor per row of spec/opcode_table.json, 15 wire opcodes (30_encoding.md R87) and
36 host operations (R89), and the form in which a host hands one to the block. Operands are mathematical integers
(00_scope.md R9, decision D29); no operand value is excluded here. -/

namespace Sys2Proof

/-- The edge names of 44_edge_sensitivity.md R180. -/
inductive Edge where
  | rising | falling | both
deriving DecidableEq, Repr

/-- An instruction: a wire opcode (`w…`) or a host operation. -/
inductive Instr where
  | wReset
  | wInit
  | wWrite0 | wWrite1 | wWrite2 | wWrite3 | wWrite4 | wWrite5 | wWrite6
  | wReadRes0 | wReadRes1 | wReadRes2 | wReadRes3
  | wReadStat
  | wReadReg1Hi
  | setSingle
  | setDouble
  | setQuad
  | isSingle
  | isDouble
  | isQuad
  | setMeasMode (m : Int)
  | getMeasMode
  | setPrediv (n : Int)
  | getPrediv
  | setHits (ch n : Int)
  | getHits (ch : Int)
  | setHitOp (k v : Int)
  | getHitOp (k : Int)
  | setStartEdge (e : Int)
  | getStartEdge
  | setStopEdge (ch e : Int)
  | getStopEdge (ch : Int)
  | setOffset (x : Int)
  | getOffset
  | setDelrel (k v : Int)
  | getDelrel (k : Int)
  | cmdReset
  | cmdInit
  | writeReg (r : Int)
  | pushConfig
  | readResult (i : Int)
  | readStatus
  | readReg1Hi
  | testComms
  | snapshot
  | statusPointer
  | statusHits1
  | statusHits2
  | statusTimeout
  | convert (raw : Int)
deriving DecidableEq, Repr

/-- An encoded instruction. The spec has two encoded interfaces (R80): the command interface, where an operation is the
triple (`OPSEL`, A, B) (R89), and the wire, where a frame is told by its opcode byte (R87, R88). Integers have no binary
form in the spec, so the operand ports carry integers. -/
inductive Request where
  | op (opsel : Byte) (a b : Int)
  | frame (opcode : Byte)
deriving DecidableEq, Repr

/-- What the host does next: issue an instruction, or reset the block (70_reset_and_hazards.md R330). -/
inductive HostAction where
  | issue (r : Request)
  | reset
deriving DecidableEq, Repr

end Sys2Proof
end

