-- ==== Sys2Proof/WellFormed.lean ====
section
/-! DEFINITION. The checks on data that the spec states: descriptors (40_field_engine.md R110), field maps (10_state.md R28), the
other parameters, the operand lists of 30_encoding.md R91, and requests in canonical form. -/

namespace Sys2Proof

/-- A descriptor the field engine takes: `width >= 1` and `lsb + width <= 32` (R110); `reg` is 0 to 6 by its type. -/
def Desc.ok (d : Desc) : Bool := decide (1 ≤ d.width) && decide (d.lsb + d.width ≤ 32)

/-- Bit i of register r belongs to the descriptor. -/
def Desc.covers (d : Desc) (r : Reg) (i : Nat) : Bool :=
  d.reg == r && decide (d.lsb ≤ i) && decide (i < d.lsb + d.width)

/-- Disjoint bit ranges: "different register, or non-overlapping bits" (40_field_engine.md R118). -/
def Desc.disjoint (d e : Desc) : Bool :=
  d.reg != e.reg || decide (d.lsb + d.width ≤ e.lsb) || decide (e.lsb + e.width ≤ d.lsb)

/-- R28 (a): every descriptor lies in its register and has the source's width. -/
def FieldMap.inRange (m : FieldMap) : Bool :=
  Field.all.all fun f => (m.desc f).ok && (m.desc f).width == f.width

/-- R28 (b): no two descriptors share a bit. -/
def FieldMap.noOverlap (m : FieldMap) : Bool :=
  Field.all.all fun f => Field.all.all fun g => f == g || (m.desc f).disjoint (m.desc g)

/-- R28 (c): the three relative-delay fields share a register and lie at bits 8, 14 and 20. -/
def FieldMap.delrelPacked (m : FieldMap) : Bool :=
  m.delrel1.reg == m.delrel2.reg && m.delrel2.reg == m.delrel3.reg &&
  m.delrel1.lsb == 8 && m.delrel2.lsb == 14 && m.delrel3.lsb == 20

/-- R28 (d): the two ALU operators are the two nibbles of one byte. -/
def FieldMap.nibbles (m : FieldMap) : Bool :=
  m.hitop1.reg == m.hitop2.reg && m.hitop1.lsb % 4 == 0 && m.hitop2.lsb % 4 == 0 &&
  m.hitop1.lsb / 8 == m.hitop2.lsb / 8

/-- R28 (e): a stop channel's both flag lies in another register than its edge bit. -/
def FieldMap.bothElsewhere (m : FieldMap) : Bool :=
  m.stop1Both.reg != m.stop1Edge.reg && m.stop2Both.reg != m.stop2Edge.reg

/-- An admitted `FIELD_MAP` (R28): all five conditions. -/
def FieldMap.admitted (m : FieldMap) : Bool :=
  m.inRange && m.noOverlap && m.delrelPacked && m.nibbles && m.bothElsewhere

/-- `PREDIV_CODE_4` is one of the two codes that decode to 4 (42_clock_predivider.md R152). -/
def Params.codeOk (p : Params) : Bool := p.predivCode4 == 2 || p.predivCode4 == 3

/-- `PUSH_ORDER` names each of the 7 registers once (00_scope.md R8). -/
def Params.orderOk (p : Params) : Bool :=
  p.pushOrder.length == 7 && (List.finRange 7).all fun r => p.pushOrder.contains r

/-- Parameters a model may take (R8, R28). -/
def Params.ok (p : Params) : Bool := p.map.admitted && p.codeOk && p.orderOk

/-- The operands lie in the lists and ranges the operation's rule names (30_encoding.md R91): the operation is not rejected
because of an operand (60_exceptions.md R301). Every other operand value is an instruction too; its rule says what happens. -/
def Instr.wf : Instr → Bool
  | .setMeasMode m => m == 1 || m == 2
  | .setPrediv n => n == 1 || n == 2 || n == 4
  | .setHits ch n => (ch == 1 || ch == 2) && decide (0 ≤ n) && decide (n ≤ 4)
  | .getHits ch | .getStopEdge ch => ch == 1 || ch == 2
  | .setHitOp k _ | .getHitOp k => k == 1 || k == 2
  | .setStartEdge e => e == 0 || e == 1
  | .setStopEdge ch e => (ch == 1 || ch == 2) && (e == 0 || e == 1 || e == 2)
  | .setOffset x => decide (-36 ≤ x) && decide (x ≤ 35)
  | .setDelrel k _ | .getDelrel k => k == 1 || k == 2 || k == 3
  | .writeReg r => decide (0 ≤ r) && decide (r ≤ 6)
  | .readResult i => decide (0 ≤ i) && decide (i ≤ 3)
  | .wReset | .wInit | .wWrite0 | .wWrite1 | .wWrite2 | .wWrite3 | .wWrite4 | .wWrite5 | .wWrite6
  | .wReadRes0 | .wReadRes1 | .wReadRes2 | .wReadRes3 | .wReadStat | .wReadReg1Hi
  | .setSingle | .setDouble | .setQuad | .isSingle | .isDouble | .isQuad | .getMeasMode | .getPrediv
  | .getStartEdge | .getOffset | .cmdReset | .cmdInit | .pushConfig | .readStatus | .readReg1Hi | .testComms
  | .snapshot | .statusPointer | .statusHits1 | .statusHits2 | .statusTimeout | .convert _ => true

/-- How many operand ports an `OPSEL` value uses (the A and B columns of 30_encoding.md R89). -/
def operandPorts (opsel : Byte) : Nat :=
  match opsel.toNat with
  | 0x0B | 0x0D | 0x11 | 0x15 => 2
  | 0x07 | 0x09 | 0x0C | 0x0E | 0x0F | 0x12 | 0x13 | 0x16 | 0x19 | 0x1B | 0x24 => 1
  | _ => 0

/-- A request whose unused operand ports carry 0: the form `encode` writes. The block does not look at an unused port. -/
def Request.canonical : Request → Bool
  | .op sel a b => (decide (1 ≤ operandPorts sel) || a == 0) && (decide (2 ≤ operandPorts sel) || b == 0)
  | .frame _ => true

end Sys2Proof
end

