-- ==== Sys2Proof/Decode.lean ====
section
/-! DEFINITION. The decoder, total on every request and rejecting by name, the encoder, and the wire-level facts an opcode byte
gives: which bytes are opcodes (30_encoding.md R87) and how long their frame is (R88). -/

namespace Sys2Proof

/-- Why a request names no instruction. -/
inductive DecodeError where
  /-- An `OPSEL` value outside the table of R89 (R90). -/
  | unknownOpsel (opsel : Byte)
  /-- A byte that is not one of the 15 wire opcodes of R87 (R90). -/
  | unknownOpcode (opcode : Byte)
deriving DecidableEq, Repr

/-- The frame an opcode byte starts (30_encoding.md R87). -/
def decodeOpcode (op : Byte) : Except DecodeError Instr :=
  match op.toNat with
  | 0x50 => .ok .wReset
  | 0x70 => .ok .wInit
  | 0x80 => .ok .wWrite0
  | 0x81 => .ok .wWrite1
  | 0x82 => .ok .wWrite2
  | 0x83 => .ok .wWrite3
  | 0x84 => .ok .wWrite4
  | 0x85 => .ok .wWrite5
  | 0x86 => .ok .wWrite6
  | 0xB0 => .ok .wReadRes0
  | 0xB1 => .ok .wReadRes1
  | 0xB2 => .ok .wReadRes2
  | 0xB3 => .ok .wReadRes3
  | 0xB4 => .ok .wReadStat
  | 0xB5 => .ok .wReadReg1Hi
  | _ => .error (.unknownOpcode op)

/-- The host operation a triple (`OPSEL`, A, B) selects (30_encoding.md R89). A port the operation does not use is not looked
at. -/
def decodeOpsel (opsel : Byte) (a b : Int) : Except DecodeError Instr :=
  match opsel.toNat with
  | 0x01 => .ok .setSingle
  | 0x02 => .ok .setDouble
  | 0x03 => .ok .setQuad
  | 0x04 => .ok .isSingle
  | 0x05 => .ok .isDouble
  | 0x06 => .ok .isQuad
  | 0x07 => .ok (.setMeasMode a)
  | 0x08 => .ok .getMeasMode
  | 0x09 => .ok (.setPrediv a)
  | 0x0A => .ok .getPrediv
  | 0x0B => .ok (.setHits a b)
  | 0x0C => .ok (.getHits a)
  | 0x0D => .ok (.setHitOp a b)
  | 0x0E => .ok (.getHitOp a)
  | 0x0F => .ok (.setStartEdge a)
  | 0x10 => .ok .getStartEdge
  | 0x11 => .ok (.setStopEdge a b)
  | 0x12 => .ok (.getStopEdge a)
  | 0x13 => .ok (.setOffset a)
  | 0x14 => .ok .getOffset
  | 0x15 => .ok (.setDelrel a b)
  | 0x16 => .ok (.getDelrel a)
  | 0x17 => .ok .cmdReset
  | 0x18 => .ok .cmdInit
  | 0x19 => .ok (.writeReg a)
  | 0x1A => .ok .pushConfig
  | 0x1B => .ok (.readResult a)
  | 0x1C => .ok .readStatus
  | 0x1D => .ok .readReg1Hi
  | 0x1E => .ok .testComms
  | 0x1F => .ok .snapshot
  | 0x20 => .ok .statusPointer
  | 0x21 => .ok .statusHits1
  | 0x22 => .ok .statusHits2
  | 0x23 => .ok .statusTimeout
  | 0x24 => .ok (.convert a)
  | _ => .error (.unknownOpsel opsel)

/-- The instruction a request names. -/
def decode : Request → Except DecodeError Instr
  | .op sel a b => decodeOpsel sel a b
  | .frame op => decodeOpcode op

/-- The request that names an instruction, unused operand ports 0 (30_encoding.md R87, R89). -/
def encode : Instr → Request
  | .wReset => .frame 0x50#8
  | .wInit => .frame 0x70#8
  | .wWrite0 => .frame 0x80#8
  | .wWrite1 => .frame 0x81#8
  | .wWrite2 => .frame 0x82#8
  | .wWrite3 => .frame 0x83#8
  | .wWrite4 => .frame 0x84#8
  | .wWrite5 => .frame 0x85#8
  | .wWrite6 => .frame 0x86#8
  | .wReadRes0 => .frame 0xB0#8
  | .wReadRes1 => .frame 0xB1#8
  | .wReadRes2 => .frame 0xB2#8
  | .wReadRes3 => .frame 0xB3#8
  | .wReadStat => .frame 0xB4#8
  | .wReadReg1Hi => .frame 0xB5#8
  | .setSingle => .op 0x01#8 0 0
  | .setDouble => .op 0x02#8 0 0
  | .setQuad => .op 0x03#8 0 0
  | .isSingle => .op 0x04#8 0 0
  | .isDouble => .op 0x05#8 0 0
  | .isQuad => .op 0x06#8 0 0
  | .setMeasMode a => .op 0x07#8 a 0
  | .getMeasMode => .op 0x08#8 0 0
  | .setPrediv a => .op 0x09#8 a 0
  | .getPrediv => .op 0x0A#8 0 0
  | .setHits a b => .op 0x0B#8 a b
  | .getHits a => .op 0x0C#8 a 0
  | .setHitOp a b => .op 0x0D#8 a b
  | .getHitOp a => .op 0x0E#8 a 0
  | .setStartEdge a => .op 0x0F#8 a 0
  | .getStartEdge => .op 0x10#8 0 0
  | .setStopEdge a b => .op 0x11#8 a b
  | .getStopEdge a => .op 0x12#8 a 0
  | .setOffset a => .op 0x13#8 a 0
  | .getOffset => .op 0x14#8 0 0
  | .setDelrel a b => .op 0x15#8 a b
  | .getDelrel a => .op 0x16#8 a 0
  | .cmdReset => .op 0x17#8 0 0
  | .cmdInit => .op 0x18#8 0 0
  | .writeReg a => .op 0x19#8 a 0
  | .pushConfig => .op 0x1A#8 0 0
  | .readResult a => .op 0x1B#8 a 0
  | .readStatus => .op 0x1C#8 0 0
  | .readReg1Hi => .op 0x1D#8 0 0
  | .testComms => .op 0x1E#8 0 0
  | .snapshot => .op 0x1F#8 0 0
  | .statusPointer => .op 0x20#8 0 0
  | .statusHits1 => .op 0x21#8 0 0
  | .statusHits2 => .op 0x22#8 0 0
  | .statusTimeout => .op 0x23#8 0 0
  | .convert a => .op 0x24#8 a 0

/-- The payload length n of the frame an opcode starts, none for a byte the framer never emits as an opcode
(30_encoding.md R82, R88, R90). -/
def payloadLength (op : Byte) : Option Nat :=
  match op.toNat with
  | 0x50 | 0x70 => some 0
  | 0xB5 => some 1
  | 0xB4 => some 2
  | 0x80 | 0x81 | 0x82 | 0x83 | 0x84 | 0x85 | 0x86 | 0xB0 | 0xB1 | 0xB2 | 0xB3 => some 4
  | _ => none

/-- The length L of the frame an opcode starts (30_encoding.md R88). -/
def frameLength (op : Byte) : Option Nat := (payloadLength op).map (· + 1)

/-- The request a table row's bits stand for: the row's one byte, operand ports 0. Wire opcodes and `OPSEL` values do not
meet (30_encoding.md R87, R89), so the byte tells the interface. -/
def tableRequest (w : Nat) : Request :=
  let byte := BitVec.ofNat 8 w
  if (payloadLength byte).isSome then .frame byte else .op byte 0 0

/-- The instruction the decoder reads from a row's bits: every row is one byte, and the operands the table gives no bits to
are 0 (assumption log, row 1). -/
def decodeTableWord (nbits w : Nat) : Option Instr :=
  if nbits = 8 ∧ w < 256 then (decode (tableRequest w)).toOption else none

end Sys2Proof
end

