-- ==== Sys2Proof/Machine/Defaults.lean ====
section
/-! DEFINITION. The constants the source gives: the reset image and the wire opcodes (00_scope.md R7), and the defaults of the
parameters it leaves open (R8). -/

namespace Sys2Proof

/-- The default `FIELD_MAP` of R27. PRESUMED, unsafe where a claim fixes it: the positions are the datasheet's as the
spec's author knows them, not the source's (assumption log, row 3). -/
def FieldMap.default : FieldMap where
  startEdge := ⟨0, 8, 1⟩
  stop1Edge := ⟨0, 9, 1⟩
  stop2Edge := ⟨0, 10, 1⟩
  mm := ⟨0, 11, 1⟩
  prediv := ⟨0, 20, 2⟩
  hitin1 := ⟨1, 16, 3⟩
  hitin2 := ⟨1, 19, 3⟩
  hitop1 := ⟨1, 24, 4⟩
  hitop2 := ⟨1, 28, 4⟩
  stop1Both := ⟨2, 27, 1⟩
  stop2Both := ⟨2, 28, 1⟩
  delrel1 := ⟨3, 8, 6⟩
  delrel2 := ⟨3, 14, 6⟩
  delrel3 := ⟨3, 20, 6⟩
  offs := ⟨4, 8, 5⟩
  offsNeg20 := ⟨4, 13, 1⟩
  offsPos20 := ⟨4, 14, 1⟩
  double := ⟨6, 12, 1⟩
  quad := ⟨6, 13, 1⟩

/-- The defaults of R8. DESIGN CHOICE of the spec (D2, D10, D16, D18), unsafe where a claim fixes them (assumption log,
rows 3, 17, 18, 19). -/
def Params.default : Params where
  map := FieldMap.default
  dummy := 0x00#8
  predivCode4 := 2
  pushOrder := [0, 1, 2, 3, 4, 5, 6]

namespace Config

/-- `DEFAULT_IMAGE`, the 28 reset bytes of `CFG`, register 0 byte 0 first (10_state.md R22). -/
def defaultImage : List Byte :=
  [0xF3#8, 0x07#8, 0x68#8, 0x00#8] ++ [0x21#8, 0x42#8, 0x00#8, 0x00#8] ++ [0x20#8, 0x00#8, 0x00#8, 0x00#8] ++
  [0x20#8, 0x00#8, 0x00#8, 0x00#8] ++ [0x20#8, 0x00#8, 0x00#8, 0x00#8] ++ [0x40#8, 0x00#8, 0x00#8, 0x00#8] ++
  [0x40#8, 0x20#8, 0x60#8, 0x00#8]

/-- Wire opcode of the chip's power-on-reset command (20_memory.md R57, 30_encoding.md R87). -/
def opReset : Byte := 0x50#8
/-- Wire opcode "Initialize/start measurement" (R57, R87). -/
def opInit : Byte := 0x70#8
/-- Base of the register-write opcodes `0x80 + r` (R57, R87). -/
def opWrite : Byte := 0x80#8
/-- Base of the result-read opcodes `0xB0 + i` (R57, R87). -/
def opRead : Byte := 0xB0#8
/-- Wire opcode of the status read (R57, R87). -/
def opStatus : Byte := 0xB4#8
/-- Wire opcode of the register-1 high-byte read (R57, R87; 90_conflicts.md C2). -/
def opReg1Hi : Byte := 0xB5#8

end Config
end Sys2Proof
end

