-- ==== Sys2Proof/Machine/Image.lean ====
section
/-! DEFINITION. The configuration register image `CFG` as a byte space of 28 bytes (10_state.md R21, 20_memory.md R51), kept in one
canonical form, and the field engine over it (40_field_engine.md R110 to R117). -/

namespace Sys2Proof.Machine

/-- `CFG` as cells (address `4r + b`, byte `CFGB[r][b]`), addresses strictly rising, no cell equal to what an unlisted
address reads as. -/
abbrev Cfg := List Host.Cell

/-- What an unlisted address reads as: the byte of `DEFAULT_IMAGE` (10_state.md R22), so that the reset image lists
nothing. DEDUCED (assumption log, row 21), safe. -/
def resetByte (a : Nat) : Byte := Config.defaultImage.getD a 0

/-- The byte at an address. -/
def Cfg.byte : Cfg → Nat → Byte
  | [], a => resetByte a
  | (x, v) :: rest, a => if x = a then v else Cfg.byte rest a

/-- The cells without those of one address. -/
def Cfg.without (c : Cfg) (a : Nat) : Cfg := c.filter fun p => p.1 != a

/-- A cell put before the first larger or equal address. -/
def Cfg.insertCell (a : Nat) (v : Byte) : Cfg → Cfg
  | [] => [(a, v)]
  | (x, b) :: rest => if x < a then (x, b) :: Cfg.insertCell a v rest else (a, v) :: (x, b) :: rest

/-- One byte written. Writing what an unlisted address reads as removes the cell, so the form stays canonical. -/
def Cfg.setByte (c : Cfg) (a : Nat) (v : Byte) : Cfg :=
  if v = resetByte a then c.without a else (c.without a).insertCell a v

/-- The addresses rise strictly. -/
def Cfg.rising : Cfg → Bool
  | [] => true
  | [_] => true
  | p :: q :: rest => decide (p.1 < q.1) && Cfg.rising (q :: rest)

/-- The canonical form: rising addresses, every address one of the 28, no cell that says what an unlisted address says. -/
def Cfg.wf (c : Cfg) : Bool :=
  Cfg.rising c && c.all fun p => decide (p.1 < 28) && p.2 != resetByte p.1

/-- `MemRead(addr, n)`: n bytes, the first the most significant, as an unsigned value (20_memory.md R51, R52). Every use
below reads inside one register (R54), so the value has at most 32 bits. -/
def memRead (c : Cfg) (addr : Nat) : Nat → Word
  | 0 => 0
  | n + 1 => ((c.byte addr).setWidth 32 <<< (8 * n)) ||| memRead c (addr + 1) n

/-- `MemWrite(addr, n, v)`: the n-byte big-endian form of v (20_memory.md R51). -/
def memWrite (c : Cfg) (addr : Nat) : Nat → Word → Cfg
  | 0, _ => c
  | n + 1, v => memWrite (c.setByte addr ((v >>> (8 * n)).setWidth 8)) (addr + 1) n v

/-- `CFG[r]`, the 32-bit value of register r (00_scope.md R10, R12). -/
def Cfg.reg (c : Cfg) (r : Reg) : Word := memRead c (4 * r.val) 4

/-- `CFGB[r][b]` (00_scope.md R12). -/
def Cfg.regByte (c : Cfg) (r : Reg) (b : Nat) : Byte := c.byte (4 * r.val + b)


/-- `b_hi = 3 - (hi div 8)`, hi = lsb + width - 1: the window's more significant end (40_field_engine.md R111). -/
def windowHi (d : Desc) : Nat := 3 - (d.lsb + d.width - 1) / 8

/-- `b_lo = 3 - (lsb div 8)`: the window's less significant end (R111). -/
def windowLo (d : Desc) : Nat := 3 - d.lsb / 8

/-- `nb`, the number of bytes of the window (R111). -/
def windowBytes (d : Desc) : Nat := windowLo d - windowHi d + 1

/-- The byte address of the window, `4*reg + b_hi` (R112, R113). -/
def windowAddr (d : Desc) : Nat := 4 * d.reg.val + windowHi d

/-- `s = lsb mod 8`: where the field's least significant bit stands in the window (R111). -/
def windowShift (d : Desc) : Nat := d.lsb % 8

/-- `2^width - 1`, the field's bits before they are shifted. -/
def fieldOnes (d : Desc) : Word := BitVec.ofNat 32 (2 ^ d.width - 1)

/-- `M = (2^width - 1) << s`, the field's bits in the window (R111). -/
def windowMask (d : Desc) : Word := fieldOnes d <<< windowShift d

/-- `v' = v mod 2^width`: the value as it is stored (R113, R116). -/
def fieldCode (d : Desc) (v : Int) : Word := BitVec.ofInt 32 (v % 2 ^ d.width)

/-- `FieldGet(d)` (40_field_engine.md R112). -/
def fieldGet (c : Cfg) (d : Desc) : Nat :=
  (memRead c (windowAddr d) (windowBytes d) >>> windowShift d).toNat % 2 ^ d.width

/-- `FieldSet(d, v)`: reconstruct the window, clear the sub-range, OR in the value, write the window back
(40_field_engine.md R113; packed fields are no special case, R117). -/
def fieldSet (c : Cfg) (d : Desc) (v : Int) : Cfg :=
  let w := memRead c (windowAddr d) (windowBytes d)
  memWrite c (windowAddr d) (windowBytes d) ((w &&& ~~~ windowMask d) ||| (fieldCode d v <<< windowShift d))

end Sys2Proof.Machine
end

