-- ==== Sys2Proof/Machine/Operands.lean ====
section
/-! DEFINITION. Operand forms and code maps: which field an index operand names (30_encoding.md R91), edge codes, the pre-divider
maps (42_clock_predivider.md R152), the signed offset codec (45_signed_offset.md R201, R202), slices and the signed reading of a
bit pattern (00_scope.md R11). -/

namespace Sys2Proof.Machine

/-- `v[hi:lo]` (00_scope.md R11). -/
def slice (v hi lo : Nat) : Nat := (v >>> lo) % 2 ^ (hi - lo + 1)

/-- `signed_W(v)`: the integer a W-bit pattern stands for in two's complement (R11). -/
def signed (w v : Nat) : Int := if v < 2 ^ (w - 1) then (v : Int) else (v : Int) - 2 ^ w

/-- `twos_W(x)`: the W-bit pattern of x (R11). -/
def twos (w : Nat) (x : Int) : Nat := (x % 2 ^ w).toNat

/-- `BE(b1, ..., bn)`: big-endian assembly (R11, 30_encoding.md R85). -/
def be (bs : List Byte) : Nat := bs.foldl (fun acc b => acc * 256 + b.toNat) 0

/-- The hit-count field of a stop channel, none for a channel other than 1 or 2 (43_hits_and_alu_operators.md R160). -/
def hitsField (ch : Int) : Option Field :=
  if ch = 1 then some .hitin1 else if ch = 2 then some .hitin2 else none

/-- The field of an ALU operator, none for an index other than 1 or 2 (R162). -/
def hitOpField (k : Int) : Option Field :=
  if k = 1 then some .hitop1 else if k = 2 then some .hitop2 else none

/-- The edge bit and the both flag of a stop channel, none for a channel other than 1 or 2 (44_edge_sensitivity.md R183). -/
def stopFields (ch : Int) : Option (Field × Field) :=
  if ch = 1 then some (.stop1Edge, .stop1Both) else if ch = 2 then some (.stop2Edge, .stop2Both) else none

/-- A relative-delay field, none for an index other than 1, 2 or 3 (46_relative_delays.md R221). -/
def delrelField (k : Int) : Option Field :=
  if k = 1 then some .delrel1 else if k = 2 then some .delrel2 else if k = 3 then some .delrel3 else none

/-- A configuration register index, none outside 0 to 6 (47_transactions.md R234, R235). -/
def regIndex (r : Int) : Option Reg :=
  if h : 0 ≤ r ∧ r ≤ 6 then some ⟨r.toNat, by omega⟩ else none

/-- A result register index, none outside 0 to 3 (47_transactions.md R237). -/
def resultIndex (i : Int) : Option ResultReg :=
  if h : 0 ≤ i ∧ i ≤ 3 then some ⟨i.toNat, by omega⟩ else none

/-- The edge an operand code names: `RISING = 0`, `FALLING = 1`, `BOTH = 2` (30_encoding.md R91). -/
def edgeOfCode (e : Int) : Option Edge :=
  if e = 0 then some .rising else if e = 1 then some .falling else if e = 2 then some .both else none

/-- The edge bit and the both flag of a setting (44_edge_sensitivity.md R180). -/
def edgeBits : Edge → Int × Int
  | .rising => (0, 0)
  | .falling => (1, 0)
  | .both => (0, 1)

/-- The setting the two bits of a stop channel stand for, the both flag looked at first (R184). -/
def edgeOfBits (edgeBit bothFlag : Nat) : Edge :=
  if bothFlag = 1 then .both else if edgeBit = 1 then .falling else .rising

/-- `predivValue(c)`: 0 is 1, 1 is 2, 2 and 3 are 4 (42_clock_predivider.md R152). -/
def predivValue : Nat → Nat
  | 0 => 1
  | 1 => 2
  | _ => 4

/-- `predivCode(n)`, undefined for an n other than 1, 2 or 4 (R152). -/
def predivCode (p : Params) (n : Int) : Option Nat :=
  if n = 1 then some 0 else if n = 2 then some 1 else if n = 4 then some p.predivCode4 else none

/-- The conversion factor for the pre-divider n: `n / 2^18` microseconds per raw unit, exact (10_state.md R30). -/
def convOf (n : Int) : Rat := mkRat n (2 ^ 18)

/-- What `encodeOffset` answers: `(core, neg20, pos20)` (45_signed_offset.md R201). -/
structure OffsetCode where
  core : Nat
  neg20 : Nat
  pos20 : Nat
deriving DecidableEq, Repr

/-- `encodeOffset(x)` for -36 ≤ x ≤ 35 (R201). -/
def encodeOffset (x : Int) : OffsetCode :=
  if 15 < x then ⟨twos 5 (x - 20), 0, 1⟩
  else if x < -16 then ⟨twos 5 (x + 20), 1, 0⟩
  else ⟨twos 5 x, 0, 0⟩

/-- `decodeOffset(core, neg20, pos20)`, none when both flags are 1: the source has no answer there (R202). -/
def decodeOffset (core neg20 pos20 : Nat) : Option Int :=
  if pos20 = 1 ∧ neg20 = 1 then none
  else if pos20 = 1 then some (signed 5 core + 20)
  else if neg20 = 1 then some (signed 5 core - 20)
  else some (signed 5 core)

end Sys2Proof.Machine
end

