-- ==== Sys2Proof/Machine/State.lean ====
section
/-! DEFINITION. The state of the machine as plain data, its reset value, and the reasons a step may stop. The five items of
10_state.md R20 come first; the operation in progress, the outputs, the inputs and the parameters follow (INVENTORY.md). -/

namespace Sys2Proof.Machine

/-- The block never faults: "No operation raises" (60_exceptions.md R300; 93_implementation_defined.md Part 1: "`fault` is used
nowhere"). So there is no constructor. -/
inductive Fault
deriving DecidableEq, Repr

/-- Why a step is refused. -/
inductive Refusal where
  /-- Raised by `exec` for an instruction that has no meaning yet; safe. -/
  | notModelled (mnemonic : String)
  /-- Raised by every meaning when the block is not idle: "interleaving another transaction mid-sequence is undefined", and
  the model has no step that starts an operation while one is in progress (93_implementation_defined.md U1,
  92_eei_decisions.md D24). `step` never meets it from a reachable state; safe. -/
  | operationInProgress
  /-- Raised by `step` for a wire request whose byte is not one of the 15 opcodes: the framer never emits it
  (30_encoding.md R90, 93_implementation_defined.md U9); safe. -/
  | opcodeNeverEmitted (opcode : Byte)
deriving DecidableEq, Repr

/-- A value on the result port Q (30_encoding.md R89, column Q). -/
inductive Value where
  | bool (b : Bool)
  | num (n : Int)
  | edge (e : Edge)
  | word8 (v : Byte)
  | word16 (v : Half)
  | word32 (v : Word)
  | words (ws : List Word)
  | micros (t : Rat)
deriving DecidableEq, Repr

/-- One event of the wire trace: byte sent, hold flag, byte received (47_transactions.md R231). -/
structure BusEvent where
  tx : Byte
  hold : Bool
  rx : Byte
deriving DecidableEq, Repr

/-- What the transport does with a `BusXfer`: it returns a byte, it has not returned yet, or it never returns
(20_memory.md R60, R63). -/
inductive BusReply where
  | byte (rx : Byte)
  | notYet
  | never
deriving DecidableEq, Repr

/-- One transfer of a frame: its `SEQ` value, the byte sent, the hold flag (47_transactions.md R230). -/
structure Xfer where
  seq : BitVec 3
  tx : Byte
  hold : Bool
deriving DecidableEq, Repr

/-- What an operation does when its last transfer has returned. -/
inductive Finish where
  /-- The answers are discarded, there is no result (R232 to R236). -/
  | discard
  /-- READ_RESULT: the assembled 32 bits are the result (R237). -/
  | result
  /-- READ_STATUS: the assembled 16 bits go to `STAT` and are the result (R240). -/
  | status
  /-- READ_REG1_HI: the byte is the result (R242). -/
  | byte
  /-- TEST_COMMS: the result is whether the byte equals `CFGB[1][0]` (R243). -/
  | compare
deriving DecidableEq, Repr

/-- An operation in progress: the transfers still to do (the one awaited first), the payload bytes received in the current
frame, and what is done at the end. -/
structure Job where
  todo : List Xfer
  got : List Byte
  fin : Finish
deriving DecidableEq, Repr

/-- The state. -/
structure State where
  /-- `CFG` (10_state.md R21). -/
  cfg : Cfg
  /-- `CONV`, microseconds per raw unit, exact (R30). -/
  conv : Rat
  /-- `STAT` (R31). -/
  stat : Half
  /-- `CS` (R32). -/
  cs : Bool
  /-- `SEQ` (R33). -/
  seq : BitVec 3
  /-- The operation in progress, while a transfer has not returned (70_reset_and_hazards.md R347). -/
  job : Option Job
  /-- Output: the result port Q of the last operation. -/
  q : Option Value
  /-- Output: the wire trace, oldest first (47_transactions.md R231). -/
  trace : List BusEvent
  /-- Input (the model's own): what the host does next. -/
  host : List HostAction
  /-- Input (the model's own): the transport's next replies; after the last of them every transfer returns a free byte. -/
  bus : List BusReply
  /-- The model's own: how many free values have been drawn. -/
  draws : Nat
  /-- The parameters of 00_scope.md R8; no step changes them. -/
  par : Params
deriving DecidableEq, Repr

/-- The state after reset of the block under given parameters, for a given `STAT_RESET` (70_reset_and_hazards.md R330): the default
image, `CONV` from its pre-divider field, nothing emitted (R331). The counter of draws, the model's own, is 1: `STAT` is the draw
made so far. DESIGN CHOICE, safe (assumption log, rows 4 and 24). -/
def State.resetWith (p : Params) (stat : Half) : State where
  cfg := []
  conv := convOf (predivValue (fieldGet [] p.map.prediv))
  stat := stat
  cs := false
  seq := 0
  job := none
  q := none
  trace := []
  host := []
  bus := []
  draws := 1
  par := p

/-- The machine right after reset: the default parameters, `STAT` any value (10_state.md R37). The spec leaves that value open;
the model takes the draw number 0, so the next draw of a run, a reset event's `STAT` among them, is number 1 or later. DESIGN
CHOICE, safe (assumption log, row 4). -/
def State.reset : State := State.resetWith Params.default (Config.statReset 0)

end Sys2Proof.Machine
end

