-- ==== Sys2Proof/Machine/Flags.lean ====
section
/-! DEFINITION. The block has no flags register (10_state.md R35). What stands here are the bit fields of the status word
(10_state.md R31, 48_status_and_result_decode.md R270 to R273) and the resolution predicates computed from the image's bits
(41_resolution_and_mode.md R133 to R135). -/

namespace Sys2Proof.Machine

/-- Read-pointer, `STAT[2:0]` (R270). -/
def statPointer (v : Half) : Nat := slice v.toNat 2 0

/-- Channel-1 hit count, `STAT[5:3]` (R271). -/
def statHits1 (v : Half) : Nat := slice v.toNat 5 3

/-- Channel-2 hit count, `STAT[8:6]` (R272). -/
def statHits2 (v : Half) : Nat := slice v.toNat 8 6

/-- Timeout, `STAT[10:9] != 0` (R273). -/
def statTimeout (v : Half) : Bool := slice v.toNat 10 9 != 0

/-- Single resolution: not double and not quad; it has no stored bit (R133). -/
def singleOf (dbl qd : Nat) : Bool := dbl == 0 && qd == 0

/-- A stored bit read as a boolean (R134, R135; 40_field_engine.md R114). -/
def bitOf (v : Nat) : Bool := v == 1

end Sys2Proof.Machine
end

