-- ==== Sys2Proof/Machine/Ops.lean ====
section
/-! DEFINITION. The shared operations over the state: named fields, the result port, `BusXfer`, `Frame` and the operation in
progress. The block has no exception, no trap entry and no return from one (60_exceptions.md R300, R307), so no such operation
stands here. -/

namespace Sys2Proof.Machine

/-- An outcome of the block. -/
abbrev Result := Host.Outcome State Fault Refusal

/-- `FieldGet` of a named field (40_field_engine.md R112). -/
def State.get (s : State) (f : Field) : Nat := fieldGet s.cfg (s.par.map.desc f)

/-- `FieldSet` of a named field (R113). -/
def State.put (s : State) (f : Field) (v : Int) : State :=
  { s with cfg := fieldSet s.cfg (s.par.map.desc f) v }

/-- `ret v`, or no result. -/
def State.ret (s : State) (v : Option Value) : State := { s with q := v }

/-- `CONV <- v`. -/
def State.setConv (s : State) (v : Rat) : State := { s with conv := v }

/-- `STAT <- v`. -/
def State.setStat (s : State) (v : Half) : State := { s with stat := v }

/-- One more free value has been drawn. -/
def State.drawn (s : State) : State := { s with draws := s.draws + 1 }

/-- No operation is in progress and the chip is not held: the only states in which an operation starts. -/
def State.idle (s : State) : Bool := s.job.isNone && !s.cs

/-- An operation takes effect, or, where one is in progress, is refused (92_eei_decisions.md D24). -/
def perform (s t : State) : Result := if s.idle then .next t else .refused .operationInProgress

/-- `CS <- 1 ; SEQ <- k` (47_transactions.md R230). -/
def State.select (s : State) (k : BitVec 3) : State := { s with cs := true, seq := k }

/-- `CS <- 0 ; SEQ <- 0` (R230). -/
def State.release (s : State) : State := { s with cs := false, seq := 0 }

/-- A `BusXfer` has returned: the event goes to the wire trace. -/
def State.record (s : State) (x : Xfer) (rx : Byte) : State :=
  { s with trace := s.trace ++ [⟨x.tx, x.hold, rx⟩], draws := s.draws + 1 }

/-- The transport's first reply is used up. -/
def State.nextReply (s : State) : State := { s with bus := s.bus.tail }

/-- The operation stays in progress. -/
def State.suspend (s : State) (j : Job) : State := { s with job := some j }

/-- The operation in progress is taken up again. -/
def State.unsuspend (s : State) : State := { s with job := none }

/-- What a `BusXfer` does: it returns a byte, or it has not returned. -/
inductive XferOutcome where
  | returned (rx : Byte) (s : State)
  | waits (s : State)

/-- `BusXfer(tx, hold)` (20_memory.md R60, R63, R64). The reply comes from the script of replies; after its end it is the
free byte `Config.resp`. A transfer that never returns leaves everything as it is (93_implementation_defined.md U2). -/
def busXfer (s : State) (x : Xfer) : XferOutcome :=
  match s.bus with
  | .byte rx :: _ => .returned rx (s.nextReply.record x rx)
  | .notYet :: _ => .waits s.nextReply
  | .never :: _ => .waits s
  | [] => .returned (Config.resp s.draws) (s.record x (Config.resp s.draws))

/-- Payload bytes as transfers, from `SEQ = k`; the last releases chip-select (R230). -/
def payloadXfers (k : Nat) : List Byte → List Xfer
  | [] => []
  | p :: ps => ⟨BitVec.ofNat 3 k, p, !ps.isEmpty⟩ :: payloadXfers (k + 1) ps

/-- The transfers of `Frame(op, p1, ..., pn)` (R230). -/
def frame (op : Byte) (ps : List Byte) : List Xfer := ⟨0, op, !ps.isEmpty⟩ :: payloadXfers 1 ps

/-- The payload bytes received so far: the byte received while an opcode is sent is discarded and starts a new frame
(R230, 92_eei_decisions.md D17). -/
def collect (got : List Byte) (x : Xfer) (rx : Byte) : List Byte :=
  if x.seq = 0 then [] else got ++ [rx]

/-- The end of an operation that used the bus (R234, R237, R240, R242, R243; assembly: 30_encoding.md R85). -/
def finish (fin : Finish) (got : List Byte) (s : State) : State :=
  match fin with
  | .discard => s.ret none
  | .result => s.ret (some (.word32 (BitVec.ofNat 32 (be got))))
  | .status => (s.setStat (BitVec.ofNat 16 (be got))).ret (some (.word16 (BitVec.ofNat 16 (be got))))
  | .byte => s.ret (some (.word8 (BitVec.ofNat 8 (be got))))
  | .compare => s.ret (some (.bool (BitVec.ofNat 8 (be got) == s.cfg.regByte 1 0)))

/-- The transfers of an operation, one after the other (R230). Where one has not returned, the operation stays in progress
with `CS` and `SEQ` as they are (70_reset_and_hazards.md R347). -/
def transfer (fin : Finish) : List Xfer → List Byte → State → State
  | [], got, s => finish fin got s
  | x :: xs, got, s =>
    match busXfer (s.select x.seq) x with
    | .waits s' => s'.suspend ⟨x :: xs, got, fin⟩
    | .returned rx s' => transfer fin xs (collect got x rx) (if x.hold then s' else s'.release)

/-- An operation that uses the bus, from its first transfer. -/
def transact (fin : Finish) (xs : List Xfer) (s : State) : State := transfer fin xs [] (s.ret none)

/-- The operation in progress goes on where it was (R347: "the frame goes on where it was"). -/
def resume (j : Job) (s : State) : State := transfer j.fin j.todo j.got s.unsuspend

/-- How many frames an operation in progress has left to finish: for PUSH_CONFIG, 7 less its second counter
(10_state.md R33). -/
def Job.framesLeft (j : Job) : Nat := (j.todo.filter fun x => !x.hold).length

/-- The four payload bytes of a register write, most significant first (30_encoding.md R84). -/
def regPayload (s : State) (r : Reg) : List Byte :=
  [s.cfg.regByte r 0, s.cfg.regByte r 1, s.cfg.regByte r 2, s.cfg.regByte r 3]

/-- The frame that writes register r: `Frame(0x80 + r, CFGB[r][0..3])` (47_transactions.md R234). -/
def writeFrame (s : State) (r : Reg) : List Xfer :=
  frame (Config.opWrite + BitVec.ofNat 8 r.val) (regPayload s r)

/-- A read frame: the opcode and n dummy bytes (30_encoding.md R81, R82). -/
def readFrame (s : State) (op : Byte) (n : Nat) : List Xfer := frame op (List.replicate n s.par.dummy)

/-- A command without payload (R232, R233). -/
def sendCommand (op : Byte) (s : State) : State := transact .discard (frame op []) s

/-- One register written to the device (R234). -/
def sendRegister (r : Reg) (s : State) : State := transact .discard (writeFrame s r) s

/-- All registers written in `PUSH_ORDER`, one frame each (R236). The image is the one at the start of the push
(20_memory.md R66). -/
def sendImage (s : State) : State := transact .discard (s.par.pushOrder.flatMap (writeFrame s)) s

/-- A result register read (R237). -/
def fetchResult (i : ResultReg) (s : State) : State :=
  transact .result (readFrame s (Config.opRead + BitVec.ofNat 8 i.val) 4) s

/-- The status register read into `STAT` (R240). -/
def fetchStatus (s : State) : State := transact .status (readFrame s Config.opStatus 2) s

/-- The high byte of the device's register 1 read (R242). -/
def fetchReg1Hi (s : State) : State := transact .byte (readFrame s Config.opReg1Hi 1) s

/-- The same byte read and compared with `CFGB[1][0]` (R243). -/
def checkReg1Hi (s : State) : State := transact .compare (readFrame s Config.opReg1Hi 1) s

end Sys2Proof.Machine
end

