-- ==== Sys2Proof/Machine/Hits.lean ====
section
/-! DEFINITION. Expected hit counts and ALU hit operators: SET_HITS, GET_HITS, SET_HIT_OP, GET_HIT_OP
(43_hits_and_alu_operators.md R160 to R163). -/

namespace Sys2Proof.Machine

/-- The field an index names, 0 where it names none: the zero sentinel of the indexed getters (R161, R163, R222). -/
def getOrZero (s : State) (f : Option Field) : Int :=
  match f with
  | some f => s.get f
  | none => 0

/-- A field written, nothing where the index names none (R160, R162, R221). -/
def putOrNothing (s : State) (f : Option Field) (v : Int) : State :=
  match f with
  | some f => s.put f v
  | none => s

/-- SET_HITS: a count outside 0 to 4 or a channel other than 1 or 2 changes nothing (R160). -/
def execSetHits (ch n : Int) (s : State) : Result :=
  perform s ((if 0 ≤ n ∧ n ≤ 4 then putOrNothing s (hitsField ch) n else s).ret none)

/-- GET_HITS: the raw code; 0 for another channel (R161). -/
def execGetHits (ch : Int) (s : State) : Result := perform s (s.ret (some (.num (getOrZero s (hitsField ch)))))

/-- SET_HIT_OP: v mod 16 is stored; another index changes nothing (R162). -/
def execSetHitOp (k v : Int) (s : State) : Result := perform s ((putOrNothing s (hitOpField k) v).ret none)

/-- GET_HIT_OP: 0 for another index (R163). -/
def execGetHitOp (k : Int) (s : State) : Result := perform s (s.ret (some (.num (getOrZero s (hitOpField k)))))

end Sys2Proof.Machine
end

