-- ==== Sys2Proof/Machine/Delays.lean ====
section
/-! DEFINITION. The relative-delay fields: SET_DELREL, GET_DELREL (46_relative_delays.md R221, R222). -/

namespace Sys2Proof.Machine

/-- SET_DELREL: v mod 64 is stored, without a range check; another index changes nothing (R221). -/
def execSetDelrel (k v : Int) (s : State) : Result := perform s ((putOrNothing s (delrelField k) v).ret none)

/-- GET_DELREL: 0 for another index (R222). -/
def execGetDelrel (k : Int) (s : State) : Result := perform s (s.ret (some (.num (getOrZero s (delrelField k)))))

end Sys2Proof.Machine
end

