-- ==== Sys2Proof/Machine/Edges.lean ====
section
/-! DEFINITION. Edge sensitivity of the start and stop inputs: SET_START_EDGE, GET_START_EDGE, SET_STOP_EDGE, GET_STOP_EDGE
(44_edge_sensitivity.md R181 to R184). -/

namespace Sys2Proof.Machine

/-- SET_START_EDGE: BOTH and unknown codes are ignored (R181). -/
def execSetStartEdge (e : Int) (s : State) : Result :=
  perform s ((match edgeOfCode e with
    | some .rising => s.put .startEdge 0
    | some .falling => s.put .startEdge 1
    | some .both => s
    | none => s).ret none)

/-- GET_START_EDGE: never BOTH (R182). -/
def execGetStartEdge (s : State) : Result :=
  perform s (s.ret (some (.edge (if s.get .startEdge = 1 then .falling else .rising))))

/-- SET_STOP_EDGE: the edge bit and the both flag are written together (R183). -/
def execSetStopEdge (ch e : Int) (s : State) : Result :=
  perform s ((match stopFields ch, edgeOfCode e with
    | some (bit, flag), some edge => (s.put bit (edgeBits edge).1).put flag (edgeBits edge).2
    | _, _ => s).ret none)

/-- GET_STOP_EDGE: the both flag is looked at first; RISING for another channel (R184). -/
def execGetStopEdge (ch : Int) (s : State) : Result :=
  perform s (s.ret (some (.edge (match stopFields ch with
    | some (bit, flag) => edgeOfBits (s.get bit) (s.get flag)
    | none => .rising))))

end Sys2Proof.Machine
end

