-- ==== Sys2Proof/Machine/Offset.lean ====
section
/-! DEFINITION. The signed offset: SET_OFFSET, GET_OFFSET (45_signed_offset.md R203, R204). -/

namespace Sys2Proof.Machine

/-- The three fields of an offset code written (R203). -/
def putOffset (s : State) (c : OffsetCode) : State :=
  ((s.put .offs c.core).put .offsNeg20 c.neg20).put .offsPos20 c.pos20

/-- SET_OFFSET: a value outside -36 to 35 changes nothing (R203). -/
def execSetOffset (x : Int) (s : State) : Result :=
  perform s ((if -36 ≤ x ∧ x ≤ 35 then putOffset s (encodeOffset x) else s).ret none)

/-- GET_OFFSET: with both extension flags set the result is a free integer (R204, assumption log, row 13). -/
def execGetOffset (s : State) : Result :=
  perform s (match decodeOffset (s.get .offs) (s.get .offsNeg20) (s.get .offsPos20) with
    | some x => s.ret (some (.num x))
    | none => s.drawn.ret (some (.num (Config.freeOffset s.draws))))

end Sys2Proof.Machine
end

