-- ==== Sys2Proof/Machine/Predivider.lean ====
section
/-! DEFINITION. The clock pre-divider and its effect on the conversion factor: SET_PREDIV, GET_PREDIV (42_clock_predivider.md R150, R151). -/

namespace Sys2Proof.Machine

/-- SET_PREDIV: the raw code is stored and `CONV` recomputed; anything but 1, 2 or 4 changes nothing (R150). -/
def execSetPrediv (n : Int) (s : State) : Result :=
  perform s ((match predivCode s.par n with
    | some code => (s.put .prediv code).setConv (convOf n)
    | none => s).ret none)

/-- GET_PREDIV (R151). -/
def execGetPrediv (s : State) : Result := perform s (s.ret (some (.num (predivValue (s.get .prediv)))))

end Sys2Proof.Machine
end

