-- ==== Sys2Proof/Machine/Resolution.lean ====
section
/-! DEFINITION. Resolution mode and measurement mode: SET_SINGLE, SET_DOUBLE, SET_QUAD, IS_SINGLE, IS_DOUBLE, IS_QUAD, SET_MEAS_MODE,
GET_MEAS_MODE (41_resolution_and_mode.md R130 to R137). -/

namespace Sys2Proof.Machine

/-- SET_SINGLE (R130). -/
def execSetSingle (s : State) : Result := perform s (((s.put .double 0).put .quad 0).ret none)

/-- SET_DOUBLE (R131). -/
def execSetDouble (s : State) : Result := perform s (((s.put .double 1).put .quad 0).ret none)

/-- SET_QUAD: a silent no-op in measurement mode 1 (R132). -/
def execSetQuad (s : State) : Result :=
  perform s ((if s.get .mm = 1 then (s.put .quad 1).put .double 0 else s).ret none)

/-- IS_SINGLE (R133). -/
def execIsSingle (s : State) : Result := perform s (s.ret (some (.bool (singleOf (s.get .double) (s.get .quad)))))

/-- IS_DOUBLE: the stored double bit (R134). -/
def execIsDouble (s : State) : Result := perform s (s.ret (some (.bool (bitOf (s.get .double)))))

/-- IS_QUAD: the stored quad bit (R135). -/
def execIsQuad (s : State) : Result := perform s (s.ret (some (.bool (bitOf (s.get .quad)))))

/-- Measurement mode 1, with the forced downgrade from quad to double (R136). -/
def enterMode1 (s : State) : State :=
  let t := s.put .mm 0
  if t.get .quad = 1 then (t.put .quad 0).put .double 1 else t

/-- SET_MEAS_MODE: anything but 1 or 2 changes nothing (R136). -/
def execSetMeasMode (m : Int) (s : State) : Result :=
  perform s ((if m = 1 then enterMode1 s else if m = 2 then s.put .mm 1 else s).ret none)

/-- GET_MEAS_MODE (R137). -/
def execGetMeasMode (s : State) : Result := perform s (s.ret (some (.num (s.get .mm + 1))))

end Sys2Proof.Machine
end

