-- ==== Sys2Proof/Machine/StatusDecode.lean ====
section
/-! DEFINITION. Status extractors and result conversion: STATUS_POINTER, STATUS_HITS1, STATUS_HITS2, STATUS_TIMEOUT, CONVERT
(48_status_and_result_decode.md R270 to R273, R276). -/

namespace Sys2Proof.Machine

/-- STATUS_POINTER (R270). -/
def execStatusPointer (s : State) : Result := perform s (s.ret (some (.num (statPointer s.stat))))

/-- STATUS_HITS1 (R271). -/
def execStatusHits1 (s : State) : Result := perform s (s.ret (some (.num (statHits1 s.stat))))

/-- STATUS_HITS2 (R272). -/
def execStatusHits2 (s : State) : Result := perform s (s.ret (some (.num (statHits2 s.stat))))

/-- STATUS_TIMEOUT (R273). -/
def execStatusTimeout (s : State) : Result := perform s (s.ret (some (.bool (statTimeout s.stat))))

/-- `signed_32(raw mod 2^32)`, the raw result as a signed number (R275, R276). -/
def signedRaw (raw : Int) : Int := signed 32 (twos 32 raw)

/-- CONVERT: the raw result, reduced mod 2^32 and read as two's complement, times `CONV`, exact (R276). -/
def execConvert (raw : Int) (s : State) : Result :=
  perform s (s.ret (some (.micros ((signedRaw raw : Rat) * s.conv))))

end Sys2Proof.Machine
end

