-- ==== Sys2Proof/Machine/Transactions.lean ====
section
/-! DEFINITION. The framer's host operations: CMD_RESET, CMD_INIT, WRITE_REG, PUSH_CONFIG, READ_RESULT, READ_STATUS, READ_REG1_HI,
TEST_COMMS, SNAPSHOT (47_transactions.md R232 to R244). -/

namespace Sys2Proof.Machine

/-- CMD_RESET: one frame, no local effect (R232). -/
def execCmdReset (s : State) : Result := perform s (sendCommand Config.opReset s)

/-- CMD_INIT: one frame, no local effect (R233). -/
def execCmdInit (s : State) : Result := perform s (sendCommand Config.opInit s)

/-- WRITE_REG: nothing for a register outside 0 to 6 (R234, R235). -/
def execWriteReg (r : Int) (s : State) : Result :=
  perform s (match regIndex r with
    | some r => sendRegister r s
    | none => s.ret none)

/-- PUSH_CONFIG: seven frames (R236). -/
def execPushConfig (s : State) : Result := perform s (sendImage s)

/-- READ_RESULT: 0 and no transfer for an index outside 0 to 3 (R237). -/
def execReadResult (i : Int) (s : State) : Result :=
  perform s (match resultIndex i with
    | some i => fetchResult i s
    | none => s.ret (some (.word32 0)))

/-- READ_STATUS (R240). -/
def execReadStatus (s : State) : Result := perform s (fetchStatus s)

/-- READ_REG1_HI (R242). -/
def execReadReg1Hi (s : State) : Result := perform s (fetchReg1Hi s)

/-- TEST_COMMS (R243). -/
def execTestComms (s : State) : Result := perform s (checkReg1Hi s)

/-- SNAPSHOT: the seven words of the image, index order (R244). -/
def execSnapshot (s : State) : Result := perform s (s.ret (some (.words ((List.finRange 7).map s.cfg.reg))))

end Sys2Proof.Machine
end

