-- ==== Sys2Proof/Machine/Wire.lean ====
section
/-! DEFINITION. The 15 wire opcodes (30_encoding.md R87). Executing one is sending that one frame and doing with the answer what the
row's rule says (assumption log, row 2). -/

namespace Sys2Proof.Machine

/-- W_RESET, 0x50 (47_transactions.md R232). -/
def execWReset (s : State) : Result := perform s (sendCommand Config.opReset s)

/-- W_INIT, 0x70 (R233). -/
def execWInit (s : State) : Result := perform s (sendCommand Config.opInit s)

/-- W_WRITE0, 0x80: register 0 of the image sent (R234). -/
def execWWrite0 (s : State) : Result := perform s (sendRegister 0 s)

/-- W_WRITE1, 0x81: register 1 of the image sent (R234). -/
def execWWrite1 (s : State) : Result := perform s (sendRegister 1 s)

/-- W_WRITE2, 0x82: register 2 of the image sent (R234). -/
def execWWrite2 (s : State) : Result := perform s (sendRegister 2 s)

/-- W_WRITE3, 0x83: register 3 of the image sent (R234). -/
def execWWrite3 (s : State) : Result := perform s (sendRegister 3 s)

/-- W_WRITE4, 0x84: register 4 of the image sent (R234). -/
def execWWrite4 (s : State) : Result := perform s (sendRegister 4 s)

/-- W_WRITE5, 0x85: register 5 of the image sent (R234). -/
def execWWrite5 (s : State) : Result := perform s (sendRegister 5 s)

/-- W_WRITE6, 0x86: register 6 of the image sent (R234). -/
def execWWrite6 (s : State) : Result := perform s (sendRegister 6 s)

/-- W_READRES0, 0xB0: result register 0 read (R237). -/
def execWReadRes0 (s : State) : Result := perform s (fetchResult 0 s)

/-- W_READRES1, 0xB1: result register 1 read (R237). -/
def execWReadRes1 (s : State) : Result := perform s (fetchResult 1 s)

/-- W_READRES2, 0xB2: result register 2 read (R237). -/
def execWReadRes2 (s : State) : Result := perform s (fetchResult 2 s)

/-- W_READRES3, 0xB3: result register 3 read (R237). -/
def execWReadRes3 (s : State) : Result := perform s (fetchResult 3 s)

/-- W_READSTAT, 0xB4: the status read into `STAT` (R240). -/
def execWReadStat (s : State) : Result := perform s (fetchStatus s)

/-- W_READREG1HI, 0xB5: the high byte of the device's register 1 read (R242). -/
def execWReadReg1Hi (s : State) : Result := perform s (fetchReg1Hi s)

end Sys2Proof.Machine
end

