-- ==== Sys2Proof/Machine/Dispatch.lean ====
section
/-! DEFINITION. One arm per instruction, each one direct call of its meaning. -/

namespace Sys2Proof.Machine

/-- What an instruction does. -/
def exec (i : Instr) (s : State) : Host.Outcome State Fault Refusal :=
  match i with
  | .wReset => Sys2Proof.Machine.execWReset s
  | .wInit => Sys2Proof.Machine.execWInit s
  | .wWrite0 => Sys2Proof.Machine.execWWrite0 s
  | .wWrite1 => Sys2Proof.Machine.execWWrite1 s
  | .wWrite2 => Sys2Proof.Machine.execWWrite2 s
  | .wWrite3 => Sys2Proof.Machine.execWWrite3 s
  | .wWrite4 => Sys2Proof.Machine.execWWrite4 s
  | .wWrite5 => Sys2Proof.Machine.execWWrite5 s
  | .wWrite6 => Sys2Proof.Machine.execWWrite6 s
  | .wReadRes0 => Sys2Proof.Machine.execWReadRes0 s
  | .wReadRes1 => Sys2Proof.Machine.execWReadRes1 s
  | .wReadRes2 => Sys2Proof.Machine.execWReadRes2 s
  | .wReadRes3 => Sys2Proof.Machine.execWReadRes3 s
  | .wReadStat => Sys2Proof.Machine.execWReadStat s
  | .wReadReg1Hi => Sys2Proof.Machine.execWReadReg1Hi s
  | .setSingle => Sys2Proof.Machine.execSetSingle s
  | .setDouble => Sys2Proof.Machine.execSetDouble s
  | .setQuad => Sys2Proof.Machine.execSetQuad s
  | .isSingle => Sys2Proof.Machine.execIsSingle s
  | .isDouble => Sys2Proof.Machine.execIsDouble s
  | .isQuad => Sys2Proof.Machine.execIsQuad s
  | .setMeasMode m => Sys2Proof.Machine.execSetMeasMode m s
  | .getMeasMode => Sys2Proof.Machine.execGetMeasMode s
  | .setPrediv n => Sys2Proof.Machine.execSetPrediv n s
  | .getPrediv => Sys2Proof.Machine.execGetPrediv s
  | .setHits ch n => Sys2Proof.Machine.execSetHits ch n s
  | .getHits ch => Sys2Proof.Machine.execGetHits ch s
  | .setHitOp k v => Sys2Proof.Machine.execSetHitOp k v s
  | .getHitOp k => Sys2Proof.Machine.execGetHitOp k s
  | .setStartEdge e => Sys2Proof.Machine.execSetStartEdge e s
  | .getStartEdge => Sys2Proof.Machine.execGetStartEdge s
  | .setStopEdge ch e => Sys2Proof.Machine.execSetStopEdge ch e s
  | .getStopEdge ch => Sys2Proof.Machine.execGetStopEdge ch s
  | .setOffset x => Sys2Proof.Machine.execSetOffset x s
  | .getOffset => Sys2Proof.Machine.execGetOffset s
  | .setDelrel k v => Sys2Proof.Machine.execSetDelrel k v s
  | .getDelrel k => Sys2Proof.Machine.execGetDelrel k s
  | .cmdReset => Sys2Proof.Machine.execCmdReset s
  | .cmdInit => Sys2Proof.Machine.execCmdInit s
  | .writeReg r => Sys2Proof.Machine.execWriteReg r s
  | .pushConfig => Sys2Proof.Machine.execPushConfig s
  | .readResult k => Sys2Proof.Machine.execReadResult k s
  | .readStatus => Sys2Proof.Machine.execReadStatus s
  | .readReg1Hi => Sys2Proof.Machine.execReadReg1Hi s
  | .testComms => Sys2Proof.Machine.execTestComms s
  | .snapshot => Sys2Proof.Machine.execSnapshot s
  | .statusPointer => Sys2Proof.Machine.execStatusPointer s
  | .statusHits1 => Sys2Proof.Machine.execStatusHits1 s
  | .statusHits2 => Sys2Proof.Machine.execStatusHits2 s
  | .statusTimeout => Sys2Proof.Machine.execStatusTimeout s
  | .convert raw => Sys2Proof.Machine.execConvert raw s

end Sys2Proof.Machine
end

