-- ==== Sys2Proof/Machine/Fetch.lean ====
section
/-! DEFINITION. What a step does around an operation: the host's action taken, an unknown selector, and the block's reset event. -/

namespace Sys2Proof.Machine

/-- The host's next action is taken. -/
def State.taken (s : State) : State := { s with host := s.host.tail }

/-- An `OPSEL` value outside the table selects no operation: "no state change, no transfer, no result"
(30_encoding.md R90, 60_exceptions.md R301). -/
def selectNothing (s : State) : State := s.taken.ret none

/-- The block's reset event, possible only between operations (70_reset_and_hazards.md R330): the reset state, `STAT` a new free
value, the draw whose number the counter holds, which no earlier step of the run has taken (DESIGN CHOICE, safe: the spec says any
value and not how two resets compare; assumption log, rows 4, 15 and 24), the wire trace empty (R331). The parameters and what the host and the transport do next are not the block's. -/
def resetEvent (s : State) : State :=
  { State.resetWith s.par (Config.statReset s.draws) with
    host := s.host.tail, bus := s.bus, draws := s.draws + 1 }

end Sys2Proof.Machine
end

