-- ==== Sys2Proof/Machine/Step.lean ====
section
/-! DEFINITION. The step. The block fetches no instructions (10_state.md R33): the host hands it one operation at a time
(00_scope.md R15). A step finishes or goes on with the operation in progress; with none, it takes the host's next action;
with none of these it leaves the state as it is, since the block has no activity of its own between operations. -/

namespace Sys2Proof.Machine

/-- One step. -/
def step (s : State) : Host.Outcome State Fault Refusal :=
  match s.job with
  | some j => .next (resume j s)
  | none =>
    match s.host with
    | [] => .next s
    | .reset :: _ => .next (resetEvent s)
    | .issue r :: _ =>
      match decode r with
      | .ok i => exec i s.taken
      | .error (.unknownOpsel _) => .next (selectNothing s)
      | .error (.unknownOpcode op) => .refused (.opcodeNeverEmitted op)

/-- The state with a table row's bits as the host's next action and nothing in progress, so that the very next step runs
that instruction. The table gives operands no bits; they are 0 (assumption log, rows 1 and 14). -/
def State.withFetchWord (s : State) (_nbits w : Nat) : State :=
  { s with host := .issue (tableRequest w) :: s.host, job := none, cs := false }

end Sys2Proof.Machine
end

