-- ==== Sys2Proof/Safety.lean ====
section
/-! DEFINITION. The terms the claims use: the invariant of a run (what the spec says of every state between steps), what a setter
may change, and what the transport's replies make of a frame. -/

namespace Sys2Proof.Machine

/-! ### The invariant -/

/-- Not double and quad together, and quad only in measurement mode 2 (41_resolution_and_mode.md R138). -/
def ResolutionLegal (s : State) : Prop :=
  ¬ (s.get .double = 1 ∧ s.get .quad = 1) ∧ ¬ (s.get .quad = 1 ∧ s.get .mm = 0)

/-- `CONV = predivValue(FieldGet(F_PREDIV)) / 2^18` (42_clock_predivider.md R153). -/
def ConvCoherent (s : State) : Prop := s.conv = convOf (predivValue (s.get .prediv))

/-- A byte sequence with hold flags as a sequence of whole frames: every frame begins with one of the 15 opcodes, has the
length that opcode fixes, and releases chip-select exactly at its last byte (30_encoding.md R87, R88, 47_transactions.md R245). The
number counts the payload bytes that are still to come in the current frame. -/
def wholeFrames : Nat → List (Byte × Bool) → Bool
  | 0, [] => true
  | _ + 1, [] => false
  | 0, (op, hold) :: rest =>
    match payloadLength op with
    | none => false
    | some n => (hold == (n != 0)) && wholeFrames n rest
  | n + 1, (_, hold) :: rest => (hold == (n != 0)) && wholeFrames n rest

/-- What has been sent. -/
def sent (s : State) : List (Byte × Bool) := s.trace.map fun e => (e.tx, e.hold)

/-- What the operation in progress has still to send. -/
def toSend (s : State) : List (Byte × Bool) :=
  match s.job with
  | none => []
  | some j => j.todo.map fun x => (x.tx, x.hold)

/-- `SEQ` values of the transfers to come: 0 for an opcode byte, one more for each payload byte, at most 4 (10_state.md R33). -/
def seqRuns : List Xfer → Bool
  | [] => true
  | [x] => !x.hold
  | x :: y :: rest => (if x.hold then y.seq == x.seq + 1 && x.seq != 4 else y.seq == 0) && seqRuns (y :: rest)

/-- The framer's bookkeeping for an operation in progress: chip-select is held, `SEQ` is the index of the awaited byte, and the
payload bytes received are those before it (10_state.md R32, R33, 47_transactions.md R230). -/
def JobHeld (s : State) (j : Job) : Prop :=
  s.cs = true ∧ seqRuns j.todo = true ∧ (∃ x xs, j.todo = x :: xs ∧ s.seq = x.seq ∧
    (x.seq ≠ 0 → j.got.length + 1 = x.seq.toNat))

/-- What holds of the state between any two steps of a run. -/
structure Inv (s : State) : Prop where
  /-- The parameters are admitted (00_scope.md R8, 10_state.md R28). -/
  params : s.par.ok = true
  /-- The image is in its canonical form. -/
  canonical : s.cfg.wf = true
  /-- The resolution is legal (R138). -/
  resolution : ResolutionLegal s
  /-- The reset image reads as legal under the map in force, so that the block's reset keeps it so (10_state.md R38: "whether it
  holds in the reset image depends on `FIELD_MAP`"). -/
  resetLegal : ResolutionLegal (State.resetWith s.par s.stat)
  /-- The conversion factor is that of the pre-divider (R153). -/
  factor : ConvCoherent s
  /-- Between operations nothing is held (10_state.md R32, R33); inside one the framer's bookkeeping holds. -/
  held : match s.job with
    | none => s.cs = false ∧ s.seq = 0
    | some j => JobHeld s j
  /-- What was sent and what the operation in progress has still to send are whole frames (47_transactions.md R245). -/
  frames : wholeFrames 0 (sent s ++ toSend s) = true

/-- Raw codes no setter stores (93_implementation_defined.md U11): both offset extension flags (45_signed_offset.md R206), a stop
channel's edge bit with its both flag (44_edge_sensitivity.md R180), a hit count above 4 (43_hits_and_alu_operators.md R160). -/
def StoredCodes (s : State) : Prop :=
  ¬ (s.get .offsNeg20 = 1 ∧ s.get .offsPos20 = 1) ∧
  ¬ (s.get .stop1Edge = 1 ∧ s.get .stop1Both = 1) ∧
  ¬ (s.get .stop2Edge = 1 ∧ s.get .stop2Both = 1) ∧
  s.get .hitin1 ≤ 4 ∧ s.get .hitin2 ≤ 4

/-! ### What a setter may change -/

/-- The byte address lies in the window of the descriptor. -/
def inWindow (d : Desc) (a : Nat) : Bool := decide (windowAddr d ≤ a) && decide (a < windowAddr d + windowBytes d)

/-- Only the named fields may differ: every bit of the image outside them, and every byte outside their windows, is as before
(10_state.md R23, 40_field_engine.md R118). -/
def ImageKeptOutside (fs : List Field) (s t : State) : Prop :=
  (∀ (r : Reg) (i : Nat), i < 32 → (∀ f ∈ fs, (s.par.map.desc f).covers r i = false) →
    (t.cfg.reg r).getLsbD i = (s.cfg.reg r).getLsbD i) ∧
  (∀ a : Nat, (∀ f ∈ fs, inWindow (s.par.map.desc f) a = false) → t.cfg.byte a = s.cfg.byte a)

/-- Everything but the image is as before, and there is no result (40_field_engine.md R118 (f)). -/
def OnlyImage (s t : State) : Prop := t = { s with cfg := t.cfg, q := none }

/-- The image after some fields were written: they read the given values, every other named field, every bit outside them
and every byte outside their windows is as before. -/
def FieldsWritten (fs : List (Field × Nat)) (s t : State) : Prop :=
  (∀ p ∈ fs, t.get p.1 = p.2) ∧ (∀ g, g ∉ fs.map Prod.fst → t.get g = s.get g) ∧
  ImageKeptOutside (fs.map Prod.fst) s t

/-- What an accepted setter does: the fields written, and nothing outside the image changed. -/
def SetterEffect (fs : List (Field × Nat)) (s t : State) : Prop := FieldsWritten fs s t ∧ OnlyImage s t

/-! ### The transport's replies -/

/-- The next n transfers return at once: the premise "every `BusXfer` returns" (92_eei_decisions.md D25), for n transfers. -/
def prompt (n : Nat) (s : State) : Prop := ∀ k < n, s.bus[k]? = none ∨ ∃ b, s.bus[k]? = some (.byte b)

/-- The byte the k-th transfer from here returns when all before it return at once. -/
def answer (s : State) (k : Nat) : Byte :=
  match s.bus[k]? with
  | some (.byte b) => b
  | _ => Config.resp (s.draws + k)

/-- The wire events of transfers that return at once, from the k-th answer on. -/
def events (s : State) : Nat → List (Byte × Bool) → List BusEvent
  | _, [] => []
  | k, (tx, hold) :: rest => ⟨tx, hold, answer s k⟩ :: events s (k + 1) rest

/-- The state after the bytes of whole frames have been sent and every answer has come back at once. -/
def afterFrames (s : State) (bytes : List (Byte × Bool)) : State :=
  { s with trace := s.trace ++ events s 0 bytes, bus := s.bus.drop bytes.length, draws := s.draws + bytes.length,
           seq := 0, q := none }

/-- The bytes and hold flags of one frame: hold until the last byte (20_memory.md R61). -/
def frameBytes (op : Byte) (ps : List Byte) : List (Byte × Bool) :=
  (frame op ps).map fun x => (x.tx, x.hold)

/-- The four bytes of the image's register r with the frame that writes it: `0x80 + r`, then most significant byte first
(20_memory.md R52 (c), 30_encoding.md R84). -/
def writeBytes (s : State) (r : Reg) : List (Byte × Bool) :=
  [(0x80#8 + BitVec.ofNat 8 r.val, true), (s.cfg.byte (4 * r.val), true), (s.cfg.byte (4 * r.val + 1), true),
   (s.cfg.byte (4 * r.val + 2), true), (s.cfg.byte (4 * r.val + 3), false)]

/-! ### Groups of instructions -/

/-- The wire opcode that writes register r (30_encoding.md R87). -/
def wireWrite : Reg → Instr
  | 0 => .wWrite0
  | 1 => .wWrite1
  | 2 => .wWrite2
  | 3 => .wWrite3
  | 4 => .wWrite4
  | 5 => .wWrite5
  | 6 => .wWrite6

/-- The wire opcode that reads result register i (R87). -/
def wireRead : ResultReg → Instr
  | 0 => .wReadRes0
  | 1 => .wReadRes1
  | 2 => .wReadRes2
  | 3 => .wReadRes3

/-- The instructions that use the bus: the operations of 47_transactions.md but SNAPSHOT, and the wire opcodes. -/
def usesBus : Instr → Bool
  | .wReset | .wInit | .wWrite0 | .wWrite1 | .wWrite2 | .wWrite3 | .wWrite4 | .wWrite5 | .wWrite6
  | .wReadRes0 | .wReadRes1 | .wReadRes2 | .wReadRes3 | .wReadStat | .wReadReg1Hi
  | .cmdReset | .cmdInit | .writeReg _ | .pushConfig | .readResult _ | .readStatus | .readReg1Hi | .testComms => true
  | .setSingle | .setDouble | .setQuad | .isSingle | .isDouble | .isQuad | .setMeasMode _ | .getMeasMode
  | .setPrediv _ | .getPrediv | .setHits _ _ | .getHits _ | .setHitOp _ _ | .getHitOp _ | .setStartEdge _
  | .getStartEdge | .setStopEdge _ _ | .getStopEdge _ | .setOffset _ | .getOffset | .setDelrel _ _ | .getDelrel _
  | .snapshot | .statusPointer | .statusHits1 | .statusHits2 | .statusTimeout | .convert _ => false

/-- The setters: the operations of files 41 to 46 that may write the image (10_state.md R23). -/
def isSetter : Instr → Bool
  | .setSingle | .setDouble | .setQuad | .setMeasMode _ | .setPrediv _ | .setHits _ _ | .setHitOp _ _
  | .setStartEdge _ | .setStopEdge _ _ | .setOffset _ | .setDelrel _ _ => true
  | .wReset | .wInit | .wWrite0 | .wWrite1 | .wWrite2 | .wWrite3 | .wWrite4 | .wWrite5 | .wWrite6
  | .wReadRes0 | .wReadRes1 | .wReadRes2 | .wReadRes3 | .wReadStat | .wReadReg1Hi
  | .cmdReset | .cmdInit | .writeReg _ | .pushConfig | .readResult _ | .readStatus | .readReg1Hi | .testComms
  | .isSingle | .isDouble | .isQuad | .getMeasMode | .getPrediv | .getHits _ | .getHitOp _ | .getStartEdge
  | .getStopEdge _ | .getOffset | .getDelrel _ | .snapshot | .statusPointer | .statusHits1 | .statusHits2
  | .statusTimeout | .convert _ => false

/-- What an operation returns when one of its operands is outside its list: the zero sentinels of the indexed getters and of
READ_RESULT, nothing otherwise (60_exceptions.md R301). -/
def rejectedResult : Instr → Option Value
  | .getHits _ | .getHitOp _ | .getDelrel _ => some (.num 0)
  | .getStopEdge _ => some (.edge .rising)
  | .readResult _ => some (.word32 0)
  | .wReset | .wInit | .wWrite0 | .wWrite1 | .wWrite2 | .wWrite3 | .wWrite4 | .wWrite5 | .wWrite6
  | .wReadRes0 | .wReadRes1 | .wReadRes2 | .wReadRes3 | .wReadStat | .wReadReg1Hi
  | .setSingle | .setDouble | .setQuad | .isSingle | .isDouble | .isQuad | .setMeasMode _ | .getMeasMode
  | .setPrediv _ | .getPrediv | .setHits _ _ | .setHitOp _ _ | .setStartEdge _ | .getStartEdge | .setStopEdge _ _
  | .setOffset _ | .getOffset | .setDelrel _ _ | .cmdReset | .cmdInit | .writeReg _ | .pushConfig | .readStatus
  | .readReg1Hi | .testComms | .snapshot | .statusPointer | .statusHits1 | .statusHits2 | .statusTimeout
  | .convert _ => none

/-! ### Runs -/

/-- k steps of the machine. -/
def run (k : Nat) (s : State) : Host.Outcome State Fault Refusal := Host.Core.run Sys2Proof.core k s

/-- The state with every "not yet" taken out of the transport's script: the same transport without its delays. -/
def withoutDelays (s : State) : State := { s with bus := s.bus.filter fun r => r != .notYet }

end Sys2Proof.Machine
end

