-- ==== Sys2Proof/Certificates/Slice0/Obligations.lean ====
section
/-! DEFINITION. The statements for the provers, one `def Obligations.<Name> : Prop` each, in the order of OBLIGATIONS.json. In every
statement an operation without a result leaves `q = none`, and an operation is executed in an idle state, which is how this model
holds the result port and the rule that operations do not overlap (assumption log, rows 12, 25 and 8). -/

open Sys2Proof Sys2Proof.Machine

/-! ### The byte space and the field engine -/

/-- 20_memory.md R51: `MemWrite` then `MemRead` of the same bytes, byte by byte, and every other byte kept.
The spec derives the rule from 10_state.md R21. -/
def Obligations.MemWriteThenMemRead : Prop :=
  ∀ (c : Cfg) (addr n : Nat) (v : Word), 1 ≤ n → addr % 4 + n ≤ 4 → addr + n ≤ 28 → v.toNat < 2 ^ (8 * n) →
    memRead (memWrite c addr n v) addr n = v ∧
    (∀ k < n, (memWrite c addr n v).byte (addr + k) = BitVec.ofNat 8 (v.toNat / 2 ^ (8 * (n - 1 - k)))) ∧
    (∀ a, ¬ (addr ≤ a ∧ a < addr + n) → (memWrite c addr n v).byte a = c.byte a) ∧
    (memRead c addr n).toNat = be ((List.range n).map fun k => c.byte (addr + k)) ∧
    (c.wf = true → (memWrite c addr n v).wf = true)

/-- 40_field_engine.md R112. -/
def Obligations.FieldGetReadsRegisterSlice : Prop :=
  (∀ (c : Cfg) (d : Desc), d.ok = true →
    fieldGet c d = slice (c.reg d.reg).toNat (d.lsb + d.width - 1) d.lsb ∧ fieldGet c d < 2 ^ d.width ∧
    (∀ c' : Cfg, (∀ a, inWindow d a = true → c'.byte a = c.byte a) → fieldGet c' d = fieldGet c d)) ∧
  (∀ (c : Cfg) (r : Reg), fieldGet c ⟨r, 0, 32⟩ = (c.reg r).toNat) ∧
  fieldGet [] ⟨1, 16, 3⟩ = 2

/-- 40_field_engine.md R113: the register after the write, the window bytes the only ones written, a write of the value
already held changes nothing, and the rule's example. -/
def Obligations.FieldSetIsMaskedUpdate : Prop :=
  (∀ (c : Cfg) (d : Desc) (v : Int), d.ok = true →
    (fieldSet c d v).reg d.reg =
      (c.reg d.reg &&& ~~~ (BitVec.ofNat 32 (2 ^ d.width - 1) <<< d.lsb)) |||
        (BitVec.ofInt 32 (v % 2 ^ d.width) <<< d.lsb) ∧
    (∀ r, r ≠ d.reg → (fieldSet c d v).reg r = c.reg r) ∧
    (∀ a, inWindow d a = false → (fieldSet c d v).byte a = c.byte a) ∧
    (∀ r i, i < 32 → d.covers r i = false → ((fieldSet c d v).reg r).getLsbD i = (c.reg r).getLsbD i) ∧
    (c.wf = true → fieldSet c d (fieldGet c d) = c)) ∧
  (fieldSet [] ⟨3, 14, 6⟩ 10).reg 3 = 0x20028000#32

/-- 40_field_engine.md R118: read-after-write, frame, idempotence, overwrite, commutation, no effect outside `CFG`.
The spec derives the rule from R112 and R113. -/
def Obligations.FieldEngineLaws : Prop :=
  (∀ (c : Cfg) (d e : Desc) (u v : Int), c.wf = true → d.ok = true → e.ok = true → d.disjoint e = true →
    fieldGet (fieldSet c d v) d = (v % 2 ^ d.width).toNat ∧
    fieldGet (fieldSet c d v) e = fieldGet c e ∧
    (∀ r i, i < 32 → d.covers r i = false → ((fieldSet c d v).reg r).getLsbD i = (c.reg r).getLsbD i) ∧
    fieldSet (fieldSet c d v) d v = fieldSet c d v ∧
    fieldSet (fieldSet c d u) d v = fieldSet c d v ∧
    fieldSet (fieldSet c d v) e u = fieldSet (fieldSet c e u) d v) ∧
  (∀ (s : State) (f : Field) (v : Int), s.put f v = { s with cfg := (s.put f v).cfg })

/-! ### Resolution and measurement mode -/

/-- 41_resolution_and_mode.md R130, R131: unconditional, in both measurement modes. -/
def Obligations.SetSingleAndSetDouble : Prop :=
  ∀ s : State, s.idle = true → s.par.ok = true →
    (∃ t, exec .setSingle s = .next t ∧ SetterEffect [(.double, 0), (.quad, 0)] s t) ∧
    (∃ t, exec .setDouble s = .next t ∧ SetterEffect [(.double, 1), (.quad, 0)] s t)

/-- 41_resolution_and_mode.md R132: quad in measurement mode 2, nothing in mode 1. -/
def Obligations.SetQuadOnlyInMode2 : Prop :=
  ∀ s : State, s.idle = true → s.par.ok = true →
    (s.get .mm = 1 → ∃ t, exec .setQuad s = .next t ∧ SetterEffect [(.quad, 1), (.double, 0)] s t) ∧
    (s.get .mm = 0 → exec .setQuad s = .next { s with q := none })

/-- 41_resolution_and_mode.md R136: mode 1 forces quad down to double, mode 2 leaves the resolution, anything else changes
nothing.
The code of the mode and the silent reject are the spec's own decision D8 (assumption log, row 20). -/
def Obligations.SetMeasModeForcesDowngrade : Prop :=
  ∀ s : State, s.idle = true → s.par.ok = true →
    (s.get .quad = 1 → ∃ t, exec (.setMeasMode 1) s = .next t ∧
      SetterEffect [(.mm, 0), (.quad, 0), (.double, 1)] s t) ∧
    (s.get .quad = 0 → ∃ t, exec (.setMeasMode 1) s = .next t ∧ SetterEffect [(.mm, 0)] s t) ∧
    (∃ t, exec (.setMeasMode 2) s = .next t ∧ SetterEffect [(.mm, 1)] s t) ∧
    (∀ m, m ≠ 1 → m ≠ 2 → exec (.setMeasMode m) s = .next { s with q := none })

/-- 41_resolution_and_mode.md R133, R134, R135, R137: reads only.
That IS_DOUBLE and IS_QUAD read stored bits, and what the mode getter answers, are the spec's own decisions D9 and D8
(assumption log, row 20). -/
def Obligations.ResolutionAndModeGetters : Prop :=
  ∀ s : State, s.idle = true →
    exec .isSingle s = .next { s with q := some (.bool (decide (s.get .double = 0 ∧ s.get .quad = 0))) } ∧
    exec .isDouble s = .next { s with q := some (.bool (decide (s.get .double = 1))) } ∧
    exec .isQuad s = .next { s with q := some (.bool (decide (s.get .quad = 1))) } ∧
    exec .getMeasMode s = .next { s with q := some (.num (s.get .mm + 1)) }

/-- 41_resolution_and_mode.md R138: what keeps a resolution-legal state legal, what repairs an illegal one, what does not, and
that no instruction of another file writes the three fields.
The spec derives the rule from R130, R131, R132 and R136. -/
def Obligations.ResolutionLegalityIsKept : Prop :=
  ∀ s : State, s.par.ok = true →
    (∀ i t, exec i s = .next t → ResolutionLegal s → ResolutionLegal t) ∧
    (∀ i t, exec i s = .next t → i = .setSingle ∨ i = .setDouble ∨ i = .setMeasMode 1 ∨
      (i = .setQuad ∧ s.get .mm = 1) → ResolutionLegal t) ∧
    (∀ t, exec (.setMeasMode 2) s = .next t → t.get .double = s.get .double ∧ t.get .quad = s.get .quad ∧ t.get .mm = 1) ∧
    (∀ t, exec .setQuad s = .next t → s.get .mm = 0 → t.cfg = s.cfg) ∧
    (∀ i t, exec i s = .next t → i ≠ .setSingle → i ≠ .setDouble → i ≠ .setQuad → (∀ m, i ≠ .setMeasMode m) →
      t.get .double = s.get .double ∧ t.get .quad = s.get .quad ∧ t.get .mm = s.get .mm)

/-- 70_reset_and_hazards.md R342: the order of SET_MEAS_MODE and SET_QUAD matters.
Mode 1 is `F_MM = 0` by the spec's own decision D8 (assumption log, row 20). -/
def Obligations.QuadDependsOnModeOrder : Prop :=
  ∀ s : State, s.idle = true → s.par.ok = true →
    (∃ t u, exec (.setMeasMode 2) s = .next t ∧ exec .setQuad t = .next u ∧ u.get .quad = 1 ∧ u.get .double = 0) ∧
    (s.get .mm = 0 → ∃ t u, exec .setQuad s = .next t ∧ exec (.setMeasMode 2) t = .next u ∧
      u.get .quad = s.get .quad ∧ u.get .double = s.get .double) ∧
    (s.get .quad = 1 → ∃ t u, exec (.setMeasMode 1) s = .next t ∧ exec (.setMeasMode 2) t = .next u ∧
      u.get .quad = 0 ∧ u.get .double = 1)

/-! ### Pre-divider and conversion factor -/

/-- 42_clock_predivider.md R150: the raw code and `CONV = n / 2^18` for 1, 2, 4; nothing for any other integer. -/
def Obligations.SetPredivStoresCodeAndFactor : Prop :=
  ∀ (s : State) (n : Int), s.idle = true → s.par.ok = true →
    (∀ code : Nat, (n = 1 ∧ code = 0) ∨ (n = 2 ∧ code = 1) ∨ (n = 4 ∧ code = s.par.predivCode4) →
      ∃ t, exec (.setPrediv n) s = .next t ∧ FieldsWritten [(.prediv, code)] s t ∧
        t = { s with cfg := t.cfg, conv := (n : Rat) / 2 ^ 18, q := none }) ∧
    (n ≠ 1 → n ≠ 2 → n ≠ 4 → exec (.setPrediv n) s = .next { s with q := none })

/-- 42_clock_predivider.md R151: the getter by raw code, code 3 read as 4; and set then get gives the same value back, whichever
code is stored for 4, and any other input leaves what the getter reads. -/
def Obligations.GetPredivDecodesRawCode : Prop :=
  ∀ s : State, s.idle = true → s.par.ok = true →
    (∃ v : Int, exec .getPrediv s = .next { s with q := some (.num v) } ∧
      (s.get .prediv = 0 → v = 1) ∧ (s.get .prediv = 1 → v = 2) ∧ (s.get .prediv = 2 ∨ s.get .prediv = 3 → v = 4) ∧
      (v = 1 ∨ v = 2 ∨ v = 4)) ∧
    (∀ n : Int, ∃ t, exec (.setPrediv n) s = .next t ∧
      ((n = 1 ∨ n = 2 ∨ n = 4) → exec .getPrediv t = .next { t with q := some (.num n) }) ∧
      (n ≠ 1 → n ≠ 2 → n ≠ 4 → t.get .prediv = s.get .prediv ∧ t.conv = s.conv))

/-- 42_clock_predivider.md R153: after reset, and after every operation from a coherent state, `CONV` is that of the
pre-divider field, and no other operation writes either.
The spec derives the rule from R150, 10_state.md R30 and R28; the reset value of the factor is its decision D21
(assumption log, row 11). -/
def Obligations.ConvFollowsPredivider : Prop :=
  (∀ (p : Params) (v : Half), p.ok = true → ConvCoherent (State.resetWith p v)) ∧
  (∀ (s t : State) (i : Instr), s.par.ok = true → exec i s = .next t →
    (ConvCoherent s → ConvCoherent t) ∧
    ((∀ n, i ≠ .setPrediv n) → t.conv = s.conv ∧ t.get .prediv = s.get .prediv))

/-! ### Hit counts and ALU operators -/

/-- 43_hits_and_alu_operators.md R160: the count in its channel's field, or nothing; no clamp.
The treatment of another channel is the spec's own decision D11 (assumption log, row 20). -/
def Obligations.SetHitsStoresOrRejects : Prop :=
  ∀ (s : State) (ch n : Int), s.idle = true → s.par.ok = true →
    (∀ f : Field, (ch = 1 ∧ f = .hitin1) ∨ (ch = 2 ∧ f = .hitin2) → 0 ≤ n → n ≤ 4 →
      ∃ t, exec (.setHits ch n) s = .next t ∧ SetterEffect [(f, n.toNat)] s t) ∧
    ((ch ≠ 1 ∧ ch ≠ 2) ∨ n < 0 ∨ 4 < n → exec (.setHits ch n) s = .next { s with q := none })

/-- 43_hits_and_alu_operators.md R162: v mod 16 in the operator's nibble, the other nibble kept; nothing for another index.
Truncation and the treatment of another index are the spec's own decisions D7 and D11 (assumption log, row 20). -/
def Obligations.SetHitOpStoresNibble : Prop :=
  ∀ (s : State) (k v : Int), s.idle = true → s.par.ok = true →
    (∀ f : Field, (k = 1 ∧ f = .hitop1) ∨ (k = 2 ∧ f = .hitop2) →
      ∃ t, exec (.setHitOp k v) s = .next t ∧ SetterEffect [(f, (v % 16).toNat)] s t) ∧
    (k ≠ 1 → k ≠ 2 → exec (.setHitOp k v) s = .next { s with q := none })

/-- 43_hits_and_alu_operators.md R161, R163: the raw field, 0 for an index other than 1 or 2.
The getters and their sentinel are the spec's own decision D11 (assumption log, row 20). -/
def Obligations.HitGettersReturnRawField : Prop :=
  ∀ s : State, s.idle = true →
    exec (.getHits 1) s = .next { s with q := some (.num (s.get .hitin1)) } ∧
    exec (.getHits 2) s = .next { s with q := some (.num (s.get .hitin2)) } ∧
    exec (.getHitOp 1) s = .next { s with q := some (.num (s.get .hitop1)) } ∧
    exec (.getHitOp 2) s = .next { s with q := some (.num (s.get .hitop2)) } ∧
    (∀ k : Int, k ≠ 1 → k ≠ 2 → exec (.getHits k) s = .next { s with q := some (.num 0) } ∧
      exec (.getHitOp k) s = .next { s with q := some (.num 0) })

/-- 43_hits_and_alu_operators.md R165: independence of the two channels and the two operators, and set then get.
The spec derives the rule from 40_field_engine.md R118; the stored code of a value that does not fit is its decision D7
(assumption log, row 20). -/
def Obligations.HitSettersAreIndependent : Prop :=
  ∀ (s : State), s.idle = true → s.par.ok = true →
    (∀ ch n : Int, (ch = 1 ∨ ch = 2) → 0 ≤ n → n ≤ 4 → ∃ t, exec (.setHits ch n) s = .next t ∧
      exec (.getHits ch) t = .next { t with q := some (.num n) } ∧
      t.get .hitop1 = s.get .hitop1 ∧ t.get .hitop2 = s.get .hitop2 ∧
      (ch = 1 → t.get .hitin2 = s.get .hitin2 ∧ ImageKeptOutside [.hitin1] s t) ∧
      (ch = 2 → t.get .hitin1 = s.get .hitin1 ∧ ImageKeptOutside [.hitin2] s t)) ∧
    (∀ k v : Int, (k = 1 ∨ k = 2) → ∃ t, exec (.setHitOp k v) s = .next t ∧
      exec (.getHitOp k) t = .next { t with q := some (.num (v % 16)) } ∧
      t.get .hitin1 = s.get .hitin1 ∧ t.get .hitin2 = s.get .hitin2 ∧
      (k = 1 → t.get .hitop2 = s.get .hitop2) ∧ (k = 2 → t.get .hitop1 = s.get .hitop1))

/-! ### Edge sensitivity -/

/-- 44_edge_sensitivity.md R181: RISING and FALLING are stored, BOTH and unknown codes are ignored.
The bit's polarity and the edge codes are the spec's own decision D12 (assumption log, row 20). -/
def Obligations.SetStartEdgeIgnoresBoth : Prop :=
  ∀ s : State, s.idle = true → s.par.ok = true →
    (∃ t, exec (.setStartEdge 0) s = .next t ∧ SetterEffect [(.startEdge, 0)] s t) ∧
    (∃ t, exec (.setStartEdge 1) s = .next t ∧ SetterEffect [(.startEdge, 1)] s t) ∧
    (∀ e : Int, e ≠ 0 → e ≠ 1 → exec (.setStartEdge e) s = .next { s with q := none })

/-- 44_edge_sensitivity.md R183: the edge bit and the both flag of one channel, both written on every accepted call.
The polarity, and that both bits are always written, are the spec's own decision D12 (assumption log, row 20). -/
def Obligations.SetStopEdgeWritesBothBits : Prop :=
  ∀ (s : State) (ch : Int), s.idle = true → s.par.ok = true →
    (∀ bit flag : Field, (ch = 1 ∧ bit = .stop1Edge ∧ flag = .stop1Both) ∨ (ch = 2 ∧ bit = .stop2Edge ∧ flag = .stop2Both) →
      (∃ t, exec (.setStopEdge ch 0) s = .next t ∧ SetterEffect [(bit, 0), (flag, 0)] s t) ∧
      (∃ t, exec (.setStopEdge ch 1) s = .next t ∧ SetterEffect [(bit, 1), (flag, 0)] s t) ∧
      (∃ t, exec (.setStopEdge ch 2) s = .next t ∧ SetterEffect [(bit, 0), (flag, 1)] s t)) ∧
    (∀ e : Int, (ch ≠ 1 ∧ ch ≠ 2) ∨ (e ≠ 0 ∧ e ≠ 1 ∧ e ≠ 2) →
      exec (.setStopEdge ch e) s = .next { s with q := none })

/-- 44_edge_sensitivity.md R182, R184: the both flag is looked at first; RISING for another channel.
The getters are the spec's own decision D12 (assumption log, row 20). -/
def Obligations.EdgeGettersReadTheBits : Prop :=
  ∀ s : State, s.idle = true →
    exec .getStartEdge s = .next { s with q := some (.edge (if s.get .startEdge = 1 then .falling else .rising)) } ∧
    (∀ (ch : Int) (bit flag : Field),
      (ch = 1 ∧ bit = .stop1Edge ∧ flag = .stop1Both) ∨ (ch = 2 ∧ bit = .stop2Edge ∧ flag = .stop2Both) →
      exec (.getStopEdge ch) s = .next { s with q := some (.edge
        (if s.get flag = 1 then .both else if s.get bit = 1 then .falling else .rising)) }) ∧
    (∀ ch : Int, ch ≠ 1 → ch ≠ 2 → exec (.getStopEdge ch) s = .next { s with q := some (.edge .rising) })

/-- 44_edge_sensitivity.md R184, last sentence: after an accepted SET_STOP_EDGE(ch, e), GET_STOP_EDGE(ch) is e.
It rests on the spec's own decision D12 (assumption log, row 20). -/
def Obligations.SetStopEdgeThenGetStopEdge : Prop :=
  ∀ (s : State) (ch e : Int) (edge : Edge), s.idle = true → s.par.ok = true → (ch = 1 ∨ ch = 2) →
    (e = 0 ∧ edge = .rising) ∨ (e = 1 ∧ edge = .falling) ∨ (e = 2 ∧ edge = .both) →
    ∃ t, exec (.setStopEdge ch e) s = .next t ∧ exec (.getStopEdge ch) t = .next { t with q := some (.edge edge) }

/-! ### The signed offset -/

/-- 45_signed_offset.md R203: the three fields for every accepted value, nothing outside -36 to 35.
The reject is the spec's own decision D13 (assumption log, row 20). -/
def Obligations.SetOffsetWritesThreeFields : Prop :=
  ∀ (s : State) (x : Int), s.idle = true → s.par.ok = true →
    (15 < x → x ≤ 35 → ∃ t, exec (.setOffset x) s = .next t ∧
      SetterEffect [(.offs, ((x - 20) % 32).toNat), (.offsNeg20, 0), (.offsPos20, 1)] s t) ∧
    (-36 ≤ x → x < -16 → ∃ t, exec (.setOffset x) s = .next t ∧
      SetterEffect [(.offs, ((x + 20) % 32).toNat), (.offsNeg20, 1), (.offsPos20, 0)] s t) ∧
    (-16 ≤ x → x ≤ 15 → ∃ t, exec (.setOffset x) s = .next t ∧
      SetterEffect [(.offs, (x % 32).toNat), (.offsNeg20, 0), (.offsPos20, 0)] s t) ∧
    (x < -36 ∨ 35 < x → exec (.setOffset x) s = .next { s with q := none })

/-- 45_signed_offset.md R204 (and R202): the core read as 5-bit two's complement, plus or minus 20 by the flag that is set;
some integer when both are. The counter of draws is the model's own (assumption log, rows 13 and 24).
The free result is the spec's own decision D14 (assumption log, row 13). -/
def Obligations.GetOffsetDecodesCoreAndFlags : Prop :=
  ∀ s : State, s.idle = true → s.par.ok = true →
    let core : Int := (BitVec.ofNat 5 (s.get .offs)).toInt
    (s.get .offsNeg20 = 0 → s.get .offsPos20 = 0 → exec .getOffset s = .next { s with q := some (.num core) }) ∧
    (s.get .offsNeg20 = 0 → s.get .offsPos20 = 1 → exec .getOffset s = .next { s with q := some (.num (core + 20)) }) ∧
    (s.get .offsNeg20 = 1 → s.get .offsPos20 = 0 → exec .getOffset s = .next { s with q := some (.num (core - 20)) }) ∧
    (s.get .offsNeg20 = 1 → s.get .offsPos20 = 1 →
      ∃ x : Int, exec .getOffset s = .next { s with q := some (.num x), draws := s.draws + 1 })

/-- 45_signed_offset.md R205: the round trip of the codec and of the image, never both flags, the core in 0 to 31, injective. -/
def Obligations.OffsetRoundTrip : Prop :=
  (∀ x : Int, -36 ≤ x → x ≤ 35 →
    decodeOffset (encodeOffset x).core (encodeOffset x).neg20 (encodeOffset x).pos20 = some x ∧
    ¬ ((encodeOffset x).neg20 = 1 ∧ (encodeOffset x).pos20 = 1) ∧ (encodeOffset x).core ≤ 31) ∧
  (∀ x y : Int, -36 ≤ x → x ≤ 35 → -36 ≤ y → y ≤ 35 → encodeOffset x = encodeOffset y → x = y) ∧
  (∀ (s : State) (x : Int), s.idle = true → s.par.ok = true → -36 ≤ x → x ≤ 35 →
    ∃ t, exec (.setOffset x) s = .next t ∧ exec .getOffset t = .next { t with q := some (.num x) })

/-! ### Relative delays -/

/-- 46_relative_delays.md R221: v mod 64 in field k, no range check; nothing for another index.
Truncation, the order of the fields and the reject are the spec's own decisions D7 and D15 (assumption log, row 20). -/
def Obligations.SetDelrelStoresModulo64 : Prop :=
  ∀ (s : State) (k v : Int), s.idle = true → s.par.ok = true →
    (∀ f : Field, (k = 1 ∧ f = .delrel1) ∨ (k = 2 ∧ f = .delrel2) ∨ (k = 3 ∧ f = .delrel3) →
      ∃ t, exec (.setDelrel k v) s = .next t ∧ SetterEffect [(f, (v % 64).toNat)] s t) ∧
    (k ≠ 1 → k ≠ 2 → k ≠ 3 → exec (.setDelrel k v) s = .next { s with q := none })

/-- 46_relative_delays.md R222: the field, 0 for another index.
The sentinel is the spec's own decision D15 (assumption log, row 20). -/
def Obligations.GetDelrelReadsField : Prop :=
  ∀ s : State, s.idle = true →
    exec (.getDelrel 1) s = .next { s with q := some (.num (s.get .delrel1)) } ∧
    exec (.getDelrel 2) s = .next { s with q := some (.num (s.get .delrel2)) } ∧
    exec (.getDelrel 3) s = .next { s with q := some (.num (s.get .delrel3)) } ∧
    (∀ k : Int, k ≠ 1 → k ≠ 2 → k ≠ 3 → exec (.getDelrel k) s = .next { s with q := some (.num 0) })

/-- 46_relative_delays.md R223: set then get, the other two fields kept, bits 31 to 26 and 7 to 0 of the register and every other
register kept, the setters commute, and the source's example.
The spec derives the rule from 40_field_engine.md R118. -/
def Obligations.DelrelLaws : Prop :=
  (∀ (s : State) (k v : Int), s.idle = true → s.par.ok = true → (k = 1 ∨ k = 2 ∨ k = 3) →
    ∃ t, exec (.setDelrel k v) s = .next t ∧
      exec (.getDelrel k) t = .next { t with q := some (.num (v % 64)) } ∧
      (∀ j : Int, (j = 1 ∨ j = 2 ∨ j = 3) → j ≠ k → ∃ x, exec (.getDelrel j) s = .next { s with q := some (.num x) } ∧
        exec (.getDelrel j) t = .next { t with q := some (.num x) }) ∧
      (∀ i, i < 8 ∨ (26 ≤ i ∧ i < 32) →
        (t.cfg.reg s.par.map.delrel1.reg).getLsbD i = (s.cfg.reg s.par.map.delrel1.reg).getLsbD i) ∧
      (∀ r, r ≠ s.par.map.delrel1.reg → t.cfg.reg r = s.cfg.reg r)) ∧
  (∀ (s : State) (k j u v : Int), s.idle = true → s.par.ok = true → s.cfg.wf = true →
    (k = 1 ∨ k = 2 ∨ k = 3) → (j = 1 ∨ j = 2 ∨ j = 3) → j ≠ k →
    ∃ t₁ t₂ t, exec (.setDelrel k v) s = .next t₁ ∧ exec (.setDelrel j u) t₁ = .next t ∧
      exec (.setDelrel j u) s = .next t₂ ∧ exec (.setDelrel k v) t₂ = .next t) ∧
  (∀ s : State, s.idle = true → s.par.ok = true → ∃ t₁ t₂ t, exec (.setDelrel 1 3) s = .next t₁ ∧
    exec (.setDelrel 2 10) t₁ = .next t₂ ∧ exec (.setDelrel 3 60) t₂ = .next t ∧
    t.get .delrel1 = 3 ∧ t.get .delrel2 = 10 ∧ t.get .delrel3 = 60)

/-! ### The transaction framer

"Every `BusXfer` returns" (92_eei_decisions.md D25) is the premise `prompt n`. -/

/-- 47_transactions.md R232, R233: one byte, not held, no local effect, no result.
That there is no local effect is the spec's own decision D26 (assumption log, row 20). -/
def Obligations.CommandsSendOneByte : Prop :=
  ∀ s : State, s.idle = true → prompt 1 s →
    exec .cmdReset s = .next (afterFrames s [(0x50#8, false)]) ∧
    exec .cmdInit s = .next (afterFrames s [(0x70#8, false)])

/-- 47_transactions.md R234, R235: the opcode `0x80 + r` and the four bytes of the image register, most significant first;
nothing for r outside 0 to 6.
The operation and its reject are the spec's own decisions D3 and D19 (assumption log, row 20). -/
def Obligations.WriteRegSendsImageRegister : Prop :=
  ∀ s : State, s.idle = true →
    (∀ r : Reg, prompt 5 s → exec (.writeReg r.val) s = .next (afterFrames s (writeBytes s r))) ∧
    (∀ r : Int, r < 0 ∨ 6 < r → exec (.writeReg r) s = .next { s with q := none })

/-- 47_transactions.md R236: seven frames in `PUSH_ORDER`, 35 transfers, each register once, no local effect. -/
def Obligations.PushConfigSendsSevenFrames : Prop :=
  ∀ s : State, s.idle = true → s.par.ok = true → prompt 35 s →
    exec .pushConfig s = .next (afterFrames s (s.par.pushOrder.flatMap (writeBytes s))) ∧
    (s.par.pushOrder.flatMap (writeBytes s)).length = 35 ∧ s.par.pushOrder.Nodup ∧ ∀ r, r ∈ s.par.pushOrder

/-- 47_transactions.md R237: four dummy bytes, the four answers assembled most significant first; 0 and no transfer for an index
outside 0 to 3. -/
def Obligations.ReadResultAssemblesAnswers : Prop :=
  ∀ s : State, s.idle = true →
    (∀ i : ResultReg, prompt 5 s → exec (.readResult i.val) s = .next { afterFrames s
        [(0xB0#8 + BitVec.ofNat 8 i.val, true), (s.par.dummy, true), (s.par.dummy, true), (s.par.dummy, true),
         (s.par.dummy, false)] with
      q := some (.word32 (((answer s 1).setWidth 32 <<< 24) ||| ((answer s 2).setWidth 32 <<< 16) |||
        ((answer s 3).setWidth 32 <<< 8) ||| (answer s 4).setWidth 32)) }) ∧
    (∀ i : Int, i < 0 ∨ 3 < i → exec (.readResult i) s = .next { s with q := some (.word32 0) })

/-- 47_transactions.md R240: `STAT` is the two answers, and so is the result. The result is the spec's own choice: "That the
operation also returns the word is this spec's convenience; the state change is what the source requires." -/
def Obligations.ReadStatusOverwritesSnapshot : Prop :=
  ∀ s : State, s.idle = true → prompt 3 s →
    let w : Half := ((answer s 1).setWidth 16 <<< 8) ||| (answer s 2).setWidth 16
    exec .readStatus s = .next { afterFrames s [(0xB4#8, true), (s.par.dummy, true), (s.par.dummy, false)] with
      stat := w, q := some (.word16 w) }

/-- 47_transactions.md R242, R243: the byte answered, and whether it equals `CFGB[1][0]`. -/
def Obligations.Reg1HiIsReadAndCompared : Prop :=
  ∀ s : State, s.idle = true → prompt 2 s →
    exec .readReg1Hi s = .next { afterFrames s [(0xB5#8, true), (s.par.dummy, false)] with
      q := some (.word8 (answer s 1)) } ∧
    exec .testComms s = .next { afterFrames s [(0xB5#8, true), (s.par.dummy, false)] with
      q := some (.bool (decide (answer s 1 = s.cfg.byte 4))) }

/-- The wire rows (30_encoding.md R87) as instructions: each sends its one frame and does with the answer what its row's rule
says. That a wire row can be executed at all is the model's choice (assumption log, row 2). -/
def Obligations.WireOpcodesSendOneFrame : Prop :=
  ∀ s : State, s.idle = true → prompt 5 s →
    exec .wReset s = .next (afterFrames s (frameBytes 0x50#8 [])) ∧
    exec .wInit s = .next (afterFrames s (frameBytes 0x70#8 [])) ∧
    (∀ r : Reg, exec (wireWrite r) s = .next (afterFrames s (writeBytes s r))) ∧
    (∀ i : ResultReg, exec (wireRead i) s = .next { afterFrames s
        (frameBytes (0xB0#8 + BitVec.ofNat 8 i.val) [s.par.dummy, s.par.dummy, s.par.dummy, s.par.dummy]) with
      q := some (.word32 (((answer s 1).setWidth 32 <<< 24) ||| ((answer s 2).setWidth 32 <<< 16) |||
        ((answer s 3).setWidth 32 <<< 8) ||| (answer s 4).setWidth 32)) }) ∧
    exec .wReadStat s = .next { afterFrames s (frameBytes 0xB4#8 [s.par.dummy, s.par.dummy]) with
      stat := ((answer s 1).setWidth 16 <<< 8) ||| (answer s 2).setWidth 16,
      q := some (.word16 (((answer s 1).setWidth 16 <<< 8) ||| (answer s 2).setWidth 16)) } ∧
    exec .wReadReg1Hi s = .next { afterFrames s (frameBytes 0xB5#8 [s.par.dummy]) with
      q := some (.word8 (answer s 1)) }

/-- 47_transactions.md R244: the seven words of the image, index order; reads only.
The order is the spec's own decision D30 (assumption log, row 20). -/
def Obligations.SnapshotShowsImage : Prop :=
  ∀ s : State, s.idle = true →
    exec .snapshot s = .next { s with q := some (.words [s.cfg.reg 0, s.cfg.reg 1, s.cfg.reg 2, s.cfg.reg 3,
      s.cfg.reg 4, s.cfg.reg 5, s.cfg.reg 6]) }

/-- 10_state.md R23, R30, R31 and 47_transactions.md R246 over every instruction: only setters write the image, only SET_PREDIV the
factor, only the status read the snapshot, and nothing the parameters.
That there is no raw write is the spec's own decision D28 (assumption log, row 20). -/
def Obligations.WhoWritesWhichState : Prop :=
  ∀ (i : Instr) (s t : State), exec i s = .next t →
    (isSetter i = false → t.cfg = s.cfg) ∧
    ((∀ n, i ≠ .setPrediv n) → t.conv = s.conv) ∧
    (i ≠ .readStatus → i ≠ .wReadStat → t.stat = s.stat) ∧
    t.par = s.par ∧ t.host = s.host

/-- 47_transactions.md R231, 10_state.md R24: setters, getters, SNAPSHOT, the status extractors and CONVERT contribute nothing to the
wire trace and never hold the chip.
The spec derives the rule from R230 and 20_memory.md R65. -/
def Obligations.LocalOperationsAreSilentOnTheWire : Prop :=
  ∀ (i : Instr) (s t : State), usesBus i = false → exec i s = .next t →
    t.trace = s.trace ∧ t.bus = s.bus ∧ t.cs = false ∧ t.seq = s.seq ∧ t.job = none

/-! ### Stalled transfers -/

/-- 70_reset_and_hazards.md R347, 60_exceptions.md R309: a frame whose transfer k does not return stops there with `CS = 1` and
`SEQ = k`, the events of the transfers before it on the wire and no local state changed; while the transfer never returns, a
step changes nothing. That `CS` is 1 also
where the awaited byte is the frame's last follows from the pseudocode of 47_transactions.md R230, R309 being silent there (assumption
log, row 7, DEDUCED). The transport's script is the model's own input (assumption log, rows 5 and 6). -/
def Obligations.StalledTransferKeepsItsPlace : Prop :=
  ∀ (s : State) (fin : Finish) (op : Byte) (ps : List Byte) (k : Nat), s.idle = true → ps.length ≤ 4 → k ≤ ps.length →
    prompt k s → s.bus[k]? = some .never →
    let t := transact fin (frame op ps) s
    t.cs = true ∧ t.seq = BitVec.ofNat 3 k ∧ t.trace = s.trace ++ events s 0 ((frameBytes op ps).take k) ∧
    t.job ≠ none ∧ t.cfg = s.cfg ∧ t.conv = s.conv ∧ t.stat = s.stat ∧ step t = .next t

/-- 70_reset_and_hazards.md R347: "if the transfer later returns the frame goes on where it was". Whatever delays the transport
puts between the transfers of an operation, the operation ends in the same state as without them.
The script is the model's own input (assumption log, rows 5 to 7). -/
def Obligations.DelaysDoNotChangeTheOutcome : Prop :=
  ∀ (i : Instr) (s t' : State), exec i (withoutDelays s) = .next t' → t'.job = none →
    ∃ (t₀ t : State) (k : Nat), exec i s = .next t₀ ∧ run k t₀ = .next t ∧ t.job = none ∧
      withoutDelays t = withoutDelays t'

/-! ### Status word and conversion -/

/-- 48_status_and_result_decode.md R270 to R273: pure bit extraction of `STAT`. -/
def Obligations.StatusExtractorsReadBits : Prop :=
  ∀ s : State, s.idle = true →
    exec .statusPointer s = .next { s with q := some (.num (s.stat.toNat % 8 : Nat)) } ∧
    exec .statusHits1 s = .next { s with q := some (.num (s.stat.toNat / 8 % 8 : Nat)) } ∧
    exec .statusHits2 s = .next { s with q := some (.num (s.stat.toNat / 64 % 8 : Nat)) } ∧
    exec .statusTimeout s = .next { s with q := some (.bool (s.stat.getLsbD 9 || s.stat.getLsbD 10)) }

/-- 48_status_and_result_decode.md R276, R275: the 32-bit pattern read as two's complement, times `CONV`, exact; reads only.
The exact rational is the spec's own decision D22 (assumption log, row 11). -/
def Obligations.ConvertMultipliesSignedRaw : Prop :=
  ∀ (s : State) (raw : Int), s.idle = true →
    exec (.convert raw) s = .next { s with q := some (.micros (((BitVec.ofInt 32 raw).toInt : Rat) * s.conv)) }

/-- 48_status_and_result_decode.md R277 (a) to (d) for a coherent factor: N times the result under N = 1, odd, bounded by 32768,
an integer multiple of 2^-18.
The spec derives the rule from R276; the exact rational is its decision D22 (assumption log, row 11). -/
def Obligations.ConvertIsLinearOddBounded : Prop :=
  ∀ (s : State) (raw : Int), s.idle = true → s.par.ok = true → ConvCoherent s → 0 < raw → raw < 2 ^ 31 →
    ∃ (n : Nat) (x y : Rat), (n = 1 ∨ n = 2 ∨ n = 4) ∧ exec .getPrediv s = .next { s with q := some (.num n) } ∧
      exec (.convert raw) s = .next { s with q := some (.micros x) } ∧
      exec (.convert (2 ^ 32 - raw)) s = .next { s with q := some (.micros y) } ∧
      x = n * ((raw : Rat) / 2 ^ 18) ∧ y = - x ∧ |x| ≤ 32768 ∧ ∃ m : Int, x = (m : Rat) / 2 ^ 18

/-! ### Encodings -/

/-- 30_encoding.md R87, R89: on requests in canonical form decoding and encoding are inverse to each other, and every encoding is
in canonical form.
The selector numbering is the spec's own decision D3; the form of a request is the model's (assumption log, row 1). -/
def Obligations.DecodeAndEncodeAgree : Prop :=
  (∀ i : Instr, (encode i).canonical = true) ∧
  (∀ (r : Request) (i : Instr), r.canonical = true → (decode r = .ok i ↔ encode i = r))

/-- 30_encoding.md R88, R90: a byte decodes as a wire opcode exactly when it is one of the 15, which is when it has a frame
length, and the length is the one of the table.
The spec derives the lengths from R82 and R87. -/
def Obligations.WireOpcodesAndFrameLengths : Prop :=
  ∀ op : Byte, ((∃ i, decode (.frame op) = .ok i) ↔ (frameLength op).isSome) ∧
    ((frameLength op = some 1 ↔ op = 0x50#8 ∨ op = 0x70#8) ∧
     (frameLength op = some 2 ↔ op = 0xB5#8) ∧ (frameLength op = some 3 ↔ op = 0xB4#8) ∧
     (frameLength op = some 5 ↔ (0x80#8 ≤ op ∧ op ≤ 0x86#8) ∨ (0xB0#8 ≤ op ∧ op ≤ 0xB3#8)) ∧
     (∀ n, frameLength op = some n → n = 1 ∨ n = 2 ∨ n = 3 ∨ n = 5))

/-- A few rows of the opcode table written out bit by bit (30_encoding.md R87, R89), operands 0 where the table gives them no
bits. -/
def Obligations.WrittenOutWordsDecode : Prop :=
  decodeTableWord 8 0b01010000 = some .wReset ∧ decodeTableWord 8 0b10000110 = some .wWrite6 ∧
  decodeTableWord 8 0b10110011 = some .wReadRes3 ∧ decodeTableWord 8 0b10110101 = some .wReadReg1Hi ∧
  decodeTableWord 8 0b00000011 = some .setQuad ∧ decodeTableWord 8 0b00001001 = some (.setPrediv 0) ∧
  decodeTableWord 8 0b00010011 = some (.setOffset 0) ∧ decodeTableWord 8 0b00100100 = some (.convert 0) ∧
  decodeTableWord 8 0b00000000 = none ∧ decodeTableWord 8 0b10000111 = none

/-! ### The machine -/

/-- A step runs the instruction that the host's next request decodes to: `step` is `exec` of it, with the request taken off
the host's list (the model's own, assumption log, row 14). -/
def Obligations.StepRunsTheDecodedInstruction : Prop :=
  ∀ (s : State) (r : Request) (rest : List HostAction) (i : Instr),
    s.job = none → s.host = .issue r :: rest → decode r = .ok i → step s = exec i { s with host := rest }

/-- 30_encoding.md R90: an `OPSEL` value outside 0x01 to 0x24 selects no operation: no state change, no transfer, no result. A
wire byte outside the 15 opcodes is refused (the model's choice, assumption log, row 10). -/
def Obligations.UnknownSelectorsDoNothing : Prop :=
  ∀ (s : State) (rest : List HostAction), s.job = none →
    (∀ (sel : Byte) (a b : Int), sel = 0 ∨ 0x24#8 < sel → s.host = .issue (.op sel a b) :: rest →
      step s = .next { s with host := rest, q := none }) ∧
    (∀ op : Byte, frameLength op = none → s.host = .issue (.frame op) :: rest →
      step s = .refused (.opcodeNeverEmitted op))

/-- 00_scope.md R15: with nothing in progress and nothing issued, a step changes nothing. -/
def Obligations.NothingHappensBetweenOperations : Prop :=
  ∀ s : State, s.job = none → s.host = [] → step s = .next s

/-- 93_implementation_defined.md U1, 92_eei_decisions.md D24: while an operation is in progress every instruction is refused. How it is
refused is the model's choice (assumption log, row 8). -/
def Obligations.NoOperationStartsInsideAnother : Prop :=
  ∀ (i : Instr) (s : State), s.idle = false → exec i s = .refused .operationInProgress

/-- 60_exceptions.md R300: "No operation raises". From a state of a run a step always answers a next state, but for a wire byte
the framer never emits (the model's choice, assumption log, row 10). -/
def Obligations.NoOperationRaises : Prop :=
  ∀ s : State, Inv s → (∃ t, step s = .next t) ∨
    (∃ op rest, s.job = none ∧ s.host = .issue (.frame op) :: rest ∧ frameLength op = none)

/-- 60_exceptions.md R301, R306: an operation with an operand outside its list does nothing at all, or returns its zero
sentinel without a transfer.
Several of the rejections are the spec's own decisions D3, D8, D11 to D13, D15 and D19 (assumption log, row 20). -/
def Obligations.RejectionIsAllOrNothing : Prop :=
  ∀ (i : Instr) (s : State), s.idle = true → i.wf = false →
    exec i s = .next { s with q := rejectedResult i }

/-- 70_reset_and_hazards.md R330, R331, 10_state.md R22, R37: the reset state under any parameters, and `CONV` under the default map
(the default map is presumed, assumption log, row 3). -/
def Obligations.ResetStateIsDefaultImage : Prop :=
  (∀ (p : Params) (v : Half), let s := State.resetWith p v
    s.cfg.reg 0 = 0xF3076800#32 ∧ s.cfg.reg 1 = 0x21420000#32 ∧ s.cfg.reg 2 = 0x20000000#32 ∧
    s.cfg.reg 3 = 0x20000000#32 ∧ s.cfg.reg 4 = 0x20000000#32 ∧ s.cfg.reg 5 = 0x40000000#32 ∧
    s.cfg.reg 6 = 0x40206000#32 ∧ s.conv = convOf (predivValue (s.get .prediv)) ∧ s.stat = v ∧
    s.cs = false ∧ s.seq = 0 ∧ s.job = none ∧ s.trace = []) ∧
  State.reset.par = Params.default ∧ State.reset.conv = 1 / 2 ^ 18

/-- 70_reset_and_hazards.md R330, R331: the block's reset event restores the default image and emits nothing; the parameters
stay.
One reset event, possible between operations, is the spec's own decision D31; how it is issued is the model's (assumption log,
row 15). -/
def Obligations.ResetEventRestoresDefaults : Prop :=
  ∀ (s : State) (rest : List HostAction), s.job = none → s.host = .reset :: rest →
    ∃ (t : State) (v : Half), step s = .next t ∧
      t = { State.resetWith s.par v with host := rest, bus := s.bus, draws := s.draws + 1 }

/-- The invariant holds right after reset, under the default parameters (presumed, assumption log, row 3). -/
def Obligations.InvariantHoldsAtReset : Prop := Inv State.reset

/-- Every step keeps the invariant (41_resolution_and_mode.md R138, 42_clock_predivider.md R153, 47_transactions.md R245, 10_state.md R32,
R33): admitted parameters, canonical image, legal resolution, coherent factor, chip-select and `SEQ` as the operation in
progress has them, and a wire trace of whole frames. -/
def Obligations.EveryStepKeepsTheInvariant : Prop :=
  ∀ s t : State, Inv s → step s = .next t → Inv t

/-- 93_implementation_defined.md U11, 45_signed_offset.md R206: where the reset image holds none of the raw codes that no setter stores, no
step brings one in.
The spec derives R206 from R201, R202 and R203. -/
def Obligations.EveryStepKeepsStoredCodes : Prop :=
  ∀ s t : State, s.par.ok = true → StoredCodes (State.resetWith s.par s.stat) → StoredCodes s →
    step s = .next t → StoredCodes t
end

