-- ==== Sys2Proof/Laws/Image.lean ====
section
/-! SUPPORT. The image: reading after writing, the canonical form kept and unique, and what `MemWrite` does to each byte
(20_memory.md R51, 10_state.md R23). -/

namespace Sys2Proof.Machine

/-! ### One byte -/

theorem Cfg.byte_without_self (c : Cfg) (a : Nat) : (c.without a).byte a = resetByte a := by
  induction c with
  | nil => rfl
  | cons p rest ih =>
    obtain ⟨x, v⟩ := p
    by_cases h : x = a
    · subst h; simpa [Cfg.without] using ih
    · simpa [Cfg.without, h, Cfg.byte] using ih

theorem Cfg.byte_without_ne (c : Cfg) {a b : Nat} (h : b ≠ a) : (c.without a).byte b = c.byte b := by
  induction c with
  | nil => rfl
  | cons p rest ih =>
    obtain ⟨x, v⟩ := p
    by_cases hx : x = a
    · subst hx
      simpa [Cfg.without, Cfg.byte, Ne.symm h] using ih
    · simp only [Cfg.without, Cfg.byte, List.filter_cons, bne_iff_ne, ne_eq, hx, not_false_eq_true, if_true] at ih ⊢
      rw [ih]

theorem Cfg.mem_without {c : Cfg} {a : Nat} {p : Host.Cell} (h : p ∈ c.without a) : p ∈ c ∧ p.1 ≠ a := by
  simpa [Cfg.without] using h

theorem Cfg.byte_insertCell_self (c : Cfg) (a : Nat) (v : Byte) (h : ∀ p ∈ c, p.1 ≠ a) :
    (Cfg.insertCell a v c).byte a = v := by
  induction c with
  | nil => simp [Cfg.insertCell, Cfg.byte]
  | cons p rest ih =>
    obtain ⟨x, w⟩ := p
    have hx : x ≠ a := h (x, w) (by simp)
    unfold Cfg.insertCell
    split
    · simpa [Cfg.byte, hx] using ih fun q hq => h q (by simp [hq])
    · simp [Cfg.byte]

theorem Cfg.byte_insertCell_ne (c : Cfg) {a b : Nat} (v : Byte) (h : b ≠ a) :
    (Cfg.insertCell a v c).byte b = c.byte b := by
  induction c with
  | nil => simp [Cfg.insertCell, Cfg.byte, Ne.symm h]
  | cons p rest ih =>
    obtain ⟨x, w⟩ := p
    unfold Cfg.insertCell
    split
    · simp [Cfg.byte, ih]
    · simp [Cfg.byte, Ne.symm h]

/-- Reading after one byte is written: the byte written there, every other byte as before. -/
theorem Cfg.byte_setByte (c : Cfg) (a b : Nat) (v : Byte) :
    (c.setByte a v).byte b = if b = a then v else c.byte b := by
  unfold Cfg.setByte
  split
  · next hv =>
    split
    · next hb => subst hb; rw [Cfg.byte_without_self, hv]
    · next hb => exact Cfg.byte_without_ne c hb
  · split
    · next hb =>
      subst hb
      exact Cfg.byte_insertCell_self _ _ _ fun p hp => (Cfg.mem_without hp).2
    · next hb => rw [Cfg.byte_insertCell_ne _ _ hb, Cfg.byte_without_ne c hb]

@[simp] theorem Cfg.byte_setByte_self (c : Cfg) (a : Nat) (v : Byte) : (c.setByte a v).byte a = v := by
  simp [Cfg.byte_setByte]

theorem Cfg.byte_setByte_ne (c : Cfg) {a b : Nat} (v : Byte) (h : b ≠ a) : (c.setByte a v).byte b = c.byte b := by
  simp [Cfg.byte_setByte, h]

/-! ### The canonical form -/

theorem Cfg.rising_iff (c : Cfg) : Cfg.rising c = true ↔ c.Pairwise (fun p q => p.1 < q.1) := by
  induction c with
  | nil => simp [Cfg.rising]
  | cons p rest ih =>
    cases rest with
    | nil => simp [Cfg.rising]
    | cons q rest =>
      rw [Cfg.rising, Bool.and_eq_true, decide_eq_true_iff, ih, List.pairwise_cons (a := p)]
      constructor
      · rintro ⟨hpq, hr⟩
        refine ⟨fun x hx => ?_, hr⟩
        rcases List.mem_cons.1 hx with rfl | hx
        · exact hpq
        · exact lt_trans hpq ((List.pairwise_cons.1 hr).1 x hx)
      · rintro ⟨hp, hr⟩
        exact ⟨hp q (by simp), hr⟩

/-- The canonical form as a proposition. -/
theorem Cfg.wf_iff (c : Cfg) :
    c.wf = true ↔ c.Pairwise (fun p q => p.1 < q.1) ∧ ∀ p ∈ c, p.1 < 28 ∧ p.2 ≠ resetByte p.1 := by
  simp [Cfg.wf, Cfg.rising_iff]

theorem Cfg.mem_insertCell {a : Nat} {v : Byte} {c : Cfg} {p : Host.Cell} (h : p ∈ Cfg.insertCell a v c) :
    p = (a, v) ∨ p ∈ c := by
  induction c with
  | nil => simpa [Cfg.insertCell] using h
  | cons q rest ih =>
    unfold Cfg.insertCell at h
    split at h
    · rcases List.mem_cons.1 h with h | h
      · exact .inr (by simp [h])
      · exact (ih h).imp_right fun h => by simp [h]
    · rcases List.mem_cons.1 h with h | h
      · exact .inl h
      · exact .inr h

theorem Cfg.pairwise_insertCell {a : Nat} {v : Byte} {c : Cfg} (hc : c.Pairwise (fun p q => p.1 < q.1))
    (ha : ∀ p ∈ c, p.1 ≠ a) : (Cfg.insertCell a v c).Pairwise (fun p q => p.1 < q.1) := by
  induction c with
  | nil => simp [Cfg.insertCell]
  | cons q rest ih =>
    obtain ⟨hq, hr⟩ := List.pairwise_cons.1 hc
    unfold Cfg.insertCell
    split
    · next hlt =>
      refine List.pairwise_cons.2 ⟨fun p hp => ?_, ih hr fun p hp => ha p (by simp [hp])⟩
      rcases Cfg.mem_insertCell hp with rfl | hp
      · exact hlt
      · exact hq p hp
    · next hlt =>
      have hqa : a < q.1 := lt_of_le_of_ne (not_lt.1 hlt) (Ne.symm (ha q (by simp)))
      refine List.pairwise_cons.2 ⟨fun p hp => ?_, hc⟩
      rcases List.mem_cons.1 hp with rfl | hp
      · exact hqa
      · exact lt_trans hqa (hq p hp)

/-- A write of a byte of the image keeps the canonical form. -/
theorem Cfg.wf_setByte {c : Cfg} (hc : c.wf = true) {a : Nat} (ha : a < 28) (v : Byte) : (c.setByte a v).wf = true := by
  obtain ⟨hp, hm⟩ := (Cfg.wf_iff c).1 hc
  have hw : (c.without a).Pairwise (fun p q => p.1 < q.1) := hp.filter _
  refine (Cfg.wf_iff _).2 ?_
  unfold Cfg.setByte
  split
  · exact ⟨hw, fun p h => hm p (Cfg.mem_without h).1⟩
  · next hv =>
    refine ⟨Cfg.pairwise_insertCell hw fun p h => (Cfg.mem_without h).2, fun p h => ?_⟩
    rcases Cfg.mem_insertCell h with rfl | h
    · exact ⟨ha, hv⟩
    · exact hm p (Cfg.mem_without h).1

theorem Cfg.byte_of_lt {c : Cfg} {a : Nat} (h : ∀ p ∈ c, a < p.1) : c.byte a = resetByte a := by
  induction c with
  | nil => rfl
  | cons p rest ih =>
    have hp := h p (by simp)
    simp only [Cfg.byte, if_neg (show p.1 ≠ a by omega)]
    exact ih fun q hq => h q (by simp [hq])

/-- The canonical form is unique: two images in it that read the same at every address are the same data. -/
theorem Cfg.ext_of_wf {c d : Cfg} (hc : c.wf = true) (hd : d.wf = true) (h : ∀ a, c.byte a = d.byte a) : c = d := by
  rw [Cfg.wf_iff] at hc hd
  induction c generalizing d with
  | nil =>
    cases d with
    | nil => rfl
    | cons q rest =>
      have := h q.1
      simp only [Cfg.byte, if_true] at this
      exact absurd this.symm (hd.2 q (by simp)).2
  | cons p rest ih =>
    cases d with
    | nil =>
      have := h p.1
      simp only [Cfg.byte, if_true] at this
      exact absurd this (hc.2 p (by simp)).2
    | cons q rest' =>
      obtain ⟨hcp, hcr⟩ := hc
      obtain ⟨hdp, hdr⟩ := hd
      obtain ⟨hcp1, hcp2⟩ := List.pairwise_cons.1 hcp
      obtain ⟨hdp1, hdp2⟩ := List.pairwise_cons.1 hdp
      have hpq : p.1 = q.1 := by
        rcases lt_trichotomy p.1 q.1 with hlt | heq | hgt
        · have := h p.1
          rw [Cfg.byte_of_lt (c := q :: rest') (by
            intro r hr; rcases List.mem_cons.1 hr with rfl | hr
            · exact hlt
            · exact lt_trans hlt (hdp1 r hr))] at this
          simp only [Cfg.byte, if_true] at this
          exact absurd this (hcr p (by simp)).2
        · exact heq
        · have := h q.1
          rw [Cfg.byte_of_lt (c := p :: rest) (by
            intro r hr; rcases List.mem_cons.1 hr with rfl | hr
            · exact hgt
            · exact lt_trans hgt (hcp1 r hr))] at this
          simp only [Cfg.byte, if_true] at this
          exact absurd this.symm (hdr q (by simp)).2
      have hv : p.2 = q.2 := by
        have := h p.1
        simpa only [Cfg.byte, if_true, if_pos hpq.symm] using this
      have hhead : p = q := Prod.ext hpq hv
      subst hhead
      congr 1
      refine ih (d := rest') ⟨hcp2, fun r hr => hcr r (by simp [hr])⟩ ⟨hdp2, fun r hr => hdr r (by simp [hr])⟩ fun a => ?_
      by_cases ha : p.1 = a
      · rw [Cfg.byte_of_lt fun r hr => ha ▸ hcp1 r hr, Cfg.byte_of_lt fun r hr => ha ▸ hdp1 r hr]
      · have := h a
        simpa only [Cfg.byte, if_neg ha] using this

/-! ### Windows of bytes -/

/-- `MemWrite` byte by byte: byte k of the window takes byte `n-1-k` of the value, every other byte stays. -/
theorem byte_memWrite (c : Cfg) (addr n : Nat) (v : Word) (a : Nat) :
    (memWrite c addr n v).byte a =
      if addr ≤ a ∧ a < addr + n then (v >>> (8 * (n - 1 - (a - addr)))).setWidth 8 else c.byte a := by
  induction n generalizing c addr with
  | zero => simp [memWrite]
  | succ n ih =>
    rw [memWrite, ih]
    by_cases h1 : addr + 1 ≤ a ∧ a < addr + 1 + n
    · rw [if_pos h1, if_pos (by omega)]
      congr 3
      omega
    · rw [if_neg h1, Cfg.byte_setByte]
      by_cases h2 : a = addr
      · subst h2; rw [if_pos rfl, if_pos (by omega)]; congr 3; omega
      · rw [if_neg h2, if_neg (by omega)]

theorem wf_memWrite {c : Cfg} (hc : c.wf = true) {addr n : Nat} (h : addr + n ≤ 28) (v : Word) :
    (memWrite c addr n v).wf = true := by
  induction n generalizing c addr with
  | zero => exact hc
  | succ n ih => exact ih (Cfg.wf_setByte hc (by omega) _) (by omega)

/-- `MemRead` bit by bit: bit i of an n-byte window is bit `i mod 8` of its byte `n-1-(i div 8)`. -/
theorem getLsbD_memRead (c : Cfg) (addr n i : Nat) (hi : i < 32) (hn : n ≤ 4) :
    (memRead c addr n).getLsbD i =
      (decide (i < 8 * n) && (c.byte (addr + (n - 1 - i / 8))).getLsbD (i % 8)) := by
  induction n generalizing addr with
  | zero => simp [memRead]
  | succ n ih =>
    rw [memRead, BitVec.getLsbD_or, ih (addr + 1) (by omega), BitVec.getLsbD_shiftLeft]
    by_cases h : i < 8 * n
    · have e : addr + 1 + (n - 1 - i / 8) = addr + (n + 1 - 1 - i / 8) := by omega
      rw [e]
      simp [h, hi, show i < 8 * (n + 1) by omega]
    · by_cases h2 : i < 8 * (n + 1)
      · have e1 : i - 8 * n = i % 8 := by omega
        have e2 : n + 1 - 1 - i / 8 = 0 := by omega
        have e3 : i % 8 < 32 := by omega
        rw [e2]
        simp [h, h2, hi, e1, e3]
      · have : 8 ≤ i - 8 * n := by omega
        simp [h, h2, hi, BitVec.getLsbD_of_ge _ _ this]

/-- Bit i of `CFG[r]` is bit `i mod 8` of byte `3 - (i div 8)` (00_scope.md R10). -/
theorem getLsbD_reg (c : Cfg) (r : Reg) (i : Nat) (hi : i < 32) :
    (c.reg r).getLsbD i = (c.regByte r (3 - i / 8)).getLsbD (i % 8) := by
  rw [Cfg.reg, getLsbD_memRead c _ 4 i hi (by omega), Cfg.regByte]
  simp [hi]

/-- The window of a descriptor lies in its register: no access leaves the byte space (20_memory.md R51, R54). -/
theorem window_in_register (d : Desc) :
    4 * d.reg.val ≤ windowAddr d ∧ windowAddr d + windowBytes d ≤ 4 * d.reg.val + 4 := by
  unfold windowAddr windowBytes windowLo windowHi
  omega

theorem window_lt_28 (d : Desc) : windowAddr d + windowBytes d ≤ 28 := by
  have := window_in_register d
  omega

theorem wf_fieldSet {c : Cfg} (hc : c.wf = true) (d : Desc) (v : Int) : (fieldSet c d v).wf = true :=
  wf_memWrite hc (window_lt_28 d) _

/-- `FieldSet` writes no byte outside its window (10_state.md R23 (c)). -/
theorem byte_fieldSet_outside (c : Cfg) (d : Desc) (v : Int) (a : Nat)
    (h : ¬ (windowAddr d ≤ a ∧ a < windowAddr d + windowBytes d)) : (fieldSet c d v).byte a = c.byte a := by
  rw [fieldSet, byte_memWrite, if_neg h]

theorem getLsbD_fieldOnes (d : Desc) (i : Nat) (hi : i < 32) : (fieldOnes d).getLsbD i = decide (i < d.width) := by
  rw [fieldOnes, BitVec.getLsbD_ofNat]
  simp [hi, Nat.testBit_two_pow_sub_one]

theorem getLsbD_windowMask (d : Desc) (i : Nat) (hi : i < 32) :
    (windowMask d).getLsbD i = (decide (windowShift d ≤ i) && decide (i < windowShift d + d.width)) := by
  rw [windowMask, BitVec.getLsbD_shiftLeft]
  by_cases h : i < windowShift d
  · simp [h, hi, not_le.2 h]
  · rw [getLsbD_fieldOnes _ _ (by omega)]
    simp only [hi, h, decide_true, decide_false, Bool.not_false, Bool.true_and, not_lt.1 h]
    exact decide_eq_decide.2 (by omega)

/-- The stored value has no bit beyond the field's width (40_field_engine.md R116). -/
theorem toNat_fieldCode (d : Desc) (v : Int) (h : d.width ≤ 32) :
    (fieldCode d v).toNat = (v % 2 ^ d.width).toNat := by
  have h0 : 0 ≤ v % 2 ^ d.width := Int.emod_nonneg _ (by positivity)
  have h1 : v % 2 ^ d.width < 2 ^ d.width := Int.emod_lt_of_pos _ (by positivity)
  have h2 : (2 : Int) ^ d.width ≤ 2 ^ 32 := pow_le_pow_right₀ (by norm_num) h
  rw [fieldCode, BitVec.toNat_ofInt]
  congr 1
  exact Int.emod_eq_of_lt h0 (by push_cast; omega)

theorem toNat_fieldCode_lt (d : Desc) (v : Int) (h : d.width ≤ 32) : (fieldCode d v).toNat < 2 ^ d.width := by
  rw [toNat_fieldCode d v h]
  have h0 : 0 ≤ v % 2 ^ d.width := Int.emod_nonneg _ (by positivity)
  have h1 : v % 2 ^ d.width < 2 ^ d.width := Int.emod_lt_of_pos _ (by positivity)
  zify
  rw [Int.toNat_of_nonneg h0]
  exact_mod_cast h1

theorem getLsbD_fieldCode_ge (d : Desc) (v : Int) (h : d.width ≤ 32) {i : Nat} (hi : d.width ≤ i) :
    (fieldCode d v).getLsbD i = false := by
  rw [BitVec.getLsbD, Nat.testBit_lt_two_pow]
  exact lt_of_lt_of_le (toNat_fieldCode_lt d v h) (Nat.pow_le_pow_right (by norm_num) hi)

/-- `FieldSet` bit by bit: the field's bits take the value, every other bit of the image keeps its own
(40_field_engine.md R113, R118 (b)). -/
theorem getLsbD_reg_fieldSet (c : Cfg) (d : Desc) (hd : d.ok = true) (v : Int) (r : Reg) (i : Nat) (hi : i < 32) :
    ((fieldSet c d v).reg r).getLsbD i =
      if d.covers r i = true then (fieldCode d v).getLsbD (i - d.lsb) else (c.reg r).getLsbD i := by
  obtain ⟨hw, hl⟩ : 1 ≤ d.width ∧ d.lsb + d.width ≤ 32 := by simpa [Desc.ok] using hd
  rw [getLsbD_reg _ _ _ hi, getLsbD_reg _ _ _ hi]
  simp only [Cfg.regByte]
  by_cases hin : windowAddr d ≤ 4 * r.val + (3 - i / 8) ∧ 4 * r.val + (3 - i / 8) < windowAddr d + windowBytes d
  · have hr : d.reg = r := by
      have := window_in_register d
      ext; omega
    subst hr
    rw [fieldSet, byte_memWrite, if_pos hin]
    have hwin : windowHi d ≤ 3 - i / 8 ∧ 3 - i / 8 < windowHi d + windowBytes d := by
      unfold windowAddr at hin; omega
    have hn4 : windowBytes d ≤ 4 := by unfold windowBytes windowLo windowHi; omega
    -- the bit's place in the window
    set k := windowBytes d - 1 - (4 * d.reg.val + (3 - i / 8) - windowAddr d) with hk
    have hkw : 8 * k + i % 8 = i - 8 * (d.lsb / 8) ∧ 8 * (d.lsb / 8) ≤ i := by
      unfold windowAddr at hk
      unfold windowBytes windowLo windowHi at *
      omega
    have hk32 : 8 * k + i % 8 < 32 := by omega
    have hi8 : i % 8 < 8 := by omega
    rw [BitVec.getLsbD_setWidth, BitVec.getLsbD_ushiftRight, BitVec.getLsbD_or, BitVec.getLsbD_and, BitVec.getLsbD_not,
      getLsbD_windowMask _ _ hk32, BitVec.getLsbD_shiftLeft, getLsbD_memRead _ _ _ _ hk32 hn4]
    have hb : windowAddr d + (windowBytes d - 1 - (8 * k + i % 8) / 8) = 4 * d.reg.val + (3 - i / 8) := by
      omega
    have hm : (8 * k + i % 8) % 8 = i % 8 := by omega
    have hlt : 8 * k + i % 8 < 8 * windowBytes d := by omega
    rw [hb, hm]
    simp only [hi8, hk32, hlt, decide_true, Bool.true_and]
    have hs : windowShift d = d.lsb - 8 * (d.lsb / 8) := by unfold windowShift; omega
    by_cases hcov : d.lsb ≤ i ∧ i < d.lsb + d.width
    · have c1 : windowShift d ≤ 8 * k + i % 8 := by omega
      have c2 : 8 * k + i % 8 < windowShift d + d.width := by omega
      have c3 : 8 * k + i % 8 - windowShift d = i - d.lsb := by omega
      simp [Desc.covers, hcov, c1, c2, c3]
    · have hcf : d.covers d.reg i = false := by
        simp only [Desc.covers, beq_self_eq_true, Bool.true_and, Bool.and_eq_false_iff, decide_eq_false_iff_not]
        omega
      rw [hcf]
      by_cases c1 : windowShift d ≤ 8 * k + i % 8
      · have c2 : ¬ 8 * k + i % 8 < windowShift d + d.width := by omega
        have c4 := getLsbD_fieldCode_ge d v (by omega) (i := 8 * k + i % 8 - windowShift d) (by omega)
        simp [c2, c4]
      · simp [c1, not_le.1 c1]
  · rw [byte_fieldSet_outside _ _ _ _ hin]
    have hcf : d.covers r i = false := by
      by_contra hcov
      simp only [Desc.covers, Bool.not_eq_false, Bool.and_eq_true, beq_iff_eq, decide_eq_true_eq] at hcov
      obtain ⟨⟨rfl, h1⟩, h2⟩ := hcov
      apply hin
      unfold windowAddr windowBytes windowLo windowHi
      omega
    simp [hcf]

/-- `FieldGet` bit by bit: bit j of the value is bit `lsb + j` of the register (40_field_engine.md R112). -/
theorem testBit_fieldGet (c : Cfg) (d : Desc) (hd : d.ok = true) (j : Nat) :
    (fieldGet c d).testBit j = (decide (j < d.width) && (c.reg d.reg).getLsbD (d.lsb + j)) := by
  obtain ⟨hw, hl⟩ : 1 ≤ d.width ∧ d.lsb + d.width ≤ 32 := by simpa [Desc.ok] using hd
  rw [fieldGet, Nat.testBit_mod_two_pow]
  by_cases hj : j < d.width
  · simp only [hj, decide_true, Bool.true_and]
    have hn4 : windowBytes d ≤ 4 := by unfold windowBytes windowLo windowHi; omega
    have h32 : windowShift d + j < 32 := by unfold windowShift; omega
    change (memRead c (windowAddr d) (windowBytes d) >>> windowShift d).getLsbD j = _
    rw [BitVec.getLsbD_ushiftRight, getLsbD_memRead _ _ _ _ h32 hn4, getLsbD_reg _ _ _ (by omega), Cfg.regByte]
    have e1 : windowShift d + j < 8 * windowBytes d := by
      unfold windowShift windowBytes windowLo windowHi; omega
    have e2 : windowAddr d + (windowBytes d - 1 - (windowShift d + j) / 8) = 4 * d.reg.val + (3 - (d.lsb + j) / 8) := by
      unfold windowAddr windowBytes windowLo windowHi windowShift; omega
    have e3 : (windowShift d + j) % 8 = (d.lsb + j) % 8 := by unfold windowShift; omega
    simp [e1, e2, e3]
  · simp [hj]

theorem fieldGet_lt (c : Cfg) (d : Desc) : fieldGet c d < 2 ^ d.width := Nat.mod_lt _ (by positivity)

/-- Reading a field back after it is written (40_field_engine.md R118 (a)). -/
theorem fieldGet_fieldSet_self (c : Cfg) (d : Desc) (hd : d.ok = true) (v : Int) :
    fieldGet (fieldSet c d v) d = (v % 2 ^ d.width).toNat := by
  obtain ⟨hw, hl⟩ : 1 ≤ d.width ∧ d.lsb + d.width ≤ 32 := by simpa [Desc.ok] using hd
  rw [← toNat_fieldCode d v (by omega)]
  apply Nat.eq_of_testBit_eq
  intro j
  rw [testBit_fieldGet _ _ hd]
  by_cases hj : j < d.width
  · rw [getLsbD_reg_fieldSet _ _ hd _ _ _ (by omega), if_pos (by simp [Desc.covers]; omega)]
    simp [hj, BitVec.getLsbD]
  · simp only [hj, decide_false, Bool.false_and]
    exact (getLsbD_fieldCode_ge d v (by omega) (not_lt.1 hj)).symm

/-- A field disjoint from the one written reads as before (40_field_engine.md R118 (b)). -/
theorem fieldGet_fieldSet_of_disjoint (c : Cfg) (d e : Desc) (hd : d.ok = true) (he : e.ok = true)
    (h : d.disjoint e = true) (v : Int) : fieldGet (fieldSet c d v) e = fieldGet c e := by
  obtain ⟨hw, hl⟩ : 1 ≤ e.width ∧ e.lsb + e.width ≤ 32 := by simpa [Desc.ok] using he
  apply Nat.eq_of_testBit_eq
  intro j
  rw [testBit_fieldGet _ _ he, testBit_fieldGet _ _ he]
  by_cases hj : j < e.width
  · have hcf : d.covers e.reg (e.lsb + j) = false := by
      by_contra hcov
      simp only [Desc.covers, Bool.not_eq_false, Bool.and_eq_true, beq_iff_eq, decide_eq_true_eq] at hcov
      simp only [Desc.disjoint, Bool.or_eq_true, bne_iff_ne, decide_eq_true_eq] at h
      rcases h with (h | h) | h
      · exact h hcov.1.1
      · omega
      · omega
    rw [getLsbD_reg_fieldSet _ _ hd _ _ _ (by omega)]
    simp [hcf]
  · simp [hj]

end Sys2Proof.Machine
end

