-- ==== Sys2Proof/Laws/State.lean ====
section
/-! SUPPORT. One lemma per field per update of the state, true by rfl, so that no proof unfolds a record update. -/

namespace Sys2Proof.Machine

variable (s : State)

@[simp] theorem State.put_cfg (f : Field) (v : Int) : (s.put f v).cfg = fieldSet s.cfg (s.par.map.desc f) v := rfl
@[simp] theorem State.put_conv (f : Field) (v : Int) : (s.put f v).conv = s.conv := rfl
@[simp] theorem State.put_stat (f : Field) (v : Int) : (s.put f v).stat = s.stat := rfl
@[simp] theorem State.put_cs (f : Field) (v : Int) : (s.put f v).cs = s.cs := rfl
@[simp] theorem State.put_seq (f : Field) (v : Int) : (s.put f v).seq = s.seq := rfl
@[simp] theorem State.put_job (f : Field) (v : Int) : (s.put f v).job = s.job := rfl
@[simp] theorem State.put_q (f : Field) (v : Int) : (s.put f v).q = s.q := rfl
@[simp] theorem State.put_trace (f : Field) (v : Int) : (s.put f v).trace = s.trace := rfl
@[simp] theorem State.put_host (f : Field) (v : Int) : (s.put f v).host = s.host := rfl
@[simp] theorem State.put_bus (f : Field) (v : Int) : (s.put f v).bus = s.bus := rfl
@[simp] theorem State.put_draws (f : Field) (v : Int) : (s.put f v).draws = s.draws := rfl
@[simp] theorem State.put_par (f : Field) (v : Int) : (s.put f v).par = s.par := rfl

@[simp] theorem State.ret_cfg (v : Option Value) : (s.ret v).cfg = s.cfg := rfl
@[simp] theorem State.ret_conv (v : Option Value) : (s.ret v).conv = s.conv := rfl
@[simp] theorem State.ret_stat (v : Option Value) : (s.ret v).stat = s.stat := rfl
@[simp] theorem State.ret_cs (v : Option Value) : (s.ret v).cs = s.cs := rfl
@[simp] theorem State.ret_seq (v : Option Value) : (s.ret v).seq = s.seq := rfl
@[simp] theorem State.ret_job (v : Option Value) : (s.ret v).job = s.job := rfl
@[simp] theorem State.ret_q (v : Option Value) : (s.ret v).q = v := rfl
@[simp] theorem State.ret_trace (v : Option Value) : (s.ret v).trace = s.trace := rfl
@[simp] theorem State.ret_host (v : Option Value) : (s.ret v).host = s.host := rfl
@[simp] theorem State.ret_bus (v : Option Value) : (s.ret v).bus = s.bus := rfl
@[simp] theorem State.ret_draws (v : Option Value) : (s.ret v).draws = s.draws := rfl
@[simp] theorem State.ret_par (v : Option Value) : (s.ret v).par = s.par := rfl

@[simp] theorem State.setConv_cfg (v : Rat) : (s.setConv v).cfg = s.cfg := rfl
@[simp] theorem State.setConv_conv (v : Rat) : (s.setConv v).conv = v := rfl
@[simp] theorem State.setConv_stat (v : Rat) : (s.setConv v).stat = s.stat := rfl
@[simp] theorem State.setConv_cs (v : Rat) : (s.setConv v).cs = s.cs := rfl
@[simp] theorem State.setConv_seq (v : Rat) : (s.setConv v).seq = s.seq := rfl
@[simp] theorem State.setConv_job (v : Rat) : (s.setConv v).job = s.job := rfl
@[simp] theorem State.setConv_q (v : Rat) : (s.setConv v).q = s.q := rfl
@[simp] theorem State.setConv_trace (v : Rat) : (s.setConv v).trace = s.trace := rfl
@[simp] theorem State.setConv_host (v : Rat) : (s.setConv v).host = s.host := rfl
@[simp] theorem State.setConv_bus (v : Rat) : (s.setConv v).bus = s.bus := rfl
@[simp] theorem State.setConv_draws (v : Rat) : (s.setConv v).draws = s.draws := rfl
@[simp] theorem State.setConv_par (v : Rat) : (s.setConv v).par = s.par := rfl

@[simp] theorem State.setStat_cfg (v : Half) : (s.setStat v).cfg = s.cfg := rfl
@[simp] theorem State.setStat_conv (v : Half) : (s.setStat v).conv = s.conv := rfl
@[simp] theorem State.setStat_stat (v : Half) : (s.setStat v).stat = v := rfl
@[simp] theorem State.setStat_cs (v : Half) : (s.setStat v).cs = s.cs := rfl
@[simp] theorem State.setStat_seq (v : Half) : (s.setStat v).seq = s.seq := rfl
@[simp] theorem State.setStat_job (v : Half) : (s.setStat v).job = s.job := rfl
@[simp] theorem State.setStat_q (v : Half) : (s.setStat v).q = s.q := rfl
@[simp] theorem State.setStat_trace (v : Half) : (s.setStat v).trace = s.trace := rfl
@[simp] theorem State.setStat_host (v : Half) : (s.setStat v).host = s.host := rfl
@[simp] theorem State.setStat_bus (v : Half) : (s.setStat v).bus = s.bus := rfl
@[simp] theorem State.setStat_draws (v : Half) : (s.setStat v).draws = s.draws := rfl
@[simp] theorem State.setStat_par (v : Half) : (s.setStat v).par = s.par := rfl

@[simp] theorem State.drawn_cfg : (s.drawn).cfg = s.cfg := rfl
@[simp] theorem State.drawn_conv : (s.drawn).conv = s.conv := rfl
@[simp] theorem State.drawn_stat : (s.drawn).stat = s.stat := rfl
@[simp] theorem State.drawn_cs : (s.drawn).cs = s.cs := rfl
@[simp] theorem State.drawn_seq : (s.drawn).seq = s.seq := rfl
@[simp] theorem State.drawn_job : (s.drawn).job = s.job := rfl
@[simp] theorem State.drawn_q : (s.drawn).q = s.q := rfl
@[simp] theorem State.drawn_trace : (s.drawn).trace = s.trace := rfl
@[simp] theorem State.drawn_host : (s.drawn).host = s.host := rfl
@[simp] theorem State.drawn_bus : (s.drawn).bus = s.bus := rfl
@[simp] theorem State.drawn_draws : (s.drawn).draws = s.draws + 1 := rfl
@[simp] theorem State.drawn_par : (s.drawn).par = s.par := rfl

@[simp] theorem State.select_cfg (k : BitVec 3) : (s.select k).cfg = s.cfg := rfl
@[simp] theorem State.select_conv (k : BitVec 3) : (s.select k).conv = s.conv := rfl
@[simp] theorem State.select_stat (k : BitVec 3) : (s.select k).stat = s.stat := rfl
@[simp] theorem State.select_cs (k : BitVec 3) : (s.select k).cs = true := rfl
@[simp] theorem State.select_seq (k : BitVec 3) : (s.select k).seq = k := rfl
@[simp] theorem State.select_job (k : BitVec 3) : (s.select k).job = s.job := rfl
@[simp] theorem State.select_q (k : BitVec 3) : (s.select k).q = s.q := rfl
@[simp] theorem State.select_trace (k : BitVec 3) : (s.select k).trace = s.trace := rfl
@[simp] theorem State.select_host (k : BitVec 3) : (s.select k).host = s.host := rfl
@[simp] theorem State.select_bus (k : BitVec 3) : (s.select k).bus = s.bus := rfl
@[simp] theorem State.select_draws (k : BitVec 3) : (s.select k).draws = s.draws := rfl
@[simp] theorem State.select_par (k : BitVec 3) : (s.select k).par = s.par := rfl

@[simp] theorem State.release_cfg : (s.release).cfg = s.cfg := rfl
@[simp] theorem State.release_conv : (s.release).conv = s.conv := rfl
@[simp] theorem State.release_stat : (s.release).stat = s.stat := rfl
@[simp] theorem State.release_cs : (s.release).cs = false := rfl
@[simp] theorem State.release_seq : (s.release).seq = 0 := rfl
@[simp] theorem State.release_job : (s.release).job = s.job := rfl
@[simp] theorem State.release_q : (s.release).q = s.q := rfl
@[simp] theorem State.release_trace : (s.release).trace = s.trace := rfl
@[simp] theorem State.release_host : (s.release).host = s.host := rfl
@[simp] theorem State.release_bus : (s.release).bus = s.bus := rfl
@[simp] theorem State.release_draws : (s.release).draws = s.draws := rfl
@[simp] theorem State.release_par : (s.release).par = s.par := rfl

@[simp] theorem State.record_cfg (x : Xfer) (rx : Byte) : (s.record x rx).cfg = s.cfg := rfl
@[simp] theorem State.record_conv (x : Xfer) (rx : Byte) : (s.record x rx).conv = s.conv := rfl
@[simp] theorem State.record_stat (x : Xfer) (rx : Byte) : (s.record x rx).stat = s.stat := rfl
@[simp] theorem State.record_cs (x : Xfer) (rx : Byte) : (s.record x rx).cs = s.cs := rfl
@[simp] theorem State.record_seq (x : Xfer) (rx : Byte) : (s.record x rx).seq = s.seq := rfl
@[simp] theorem State.record_job (x : Xfer) (rx : Byte) : (s.record x rx).job = s.job := rfl
@[simp] theorem State.record_q (x : Xfer) (rx : Byte) : (s.record x rx).q = s.q := rfl
@[simp] theorem State.record_trace (x : Xfer) (rx : Byte) : (s.record x rx).trace = s.trace ++ [⟨x.tx, x.hold, rx⟩] := rfl
@[simp] theorem State.record_host (x : Xfer) (rx : Byte) : (s.record x rx).host = s.host := rfl
@[simp] theorem State.record_bus (x : Xfer) (rx : Byte) : (s.record x rx).bus = s.bus := rfl
@[simp] theorem State.record_draws (x : Xfer) (rx : Byte) : (s.record x rx).draws = s.draws + 1 := rfl
@[simp] theorem State.record_par (x : Xfer) (rx : Byte) : (s.record x rx).par = s.par := rfl

@[simp] theorem State.nextReply_cfg : (s.nextReply).cfg = s.cfg := rfl
@[simp] theorem State.nextReply_conv : (s.nextReply).conv = s.conv := rfl
@[simp] theorem State.nextReply_stat : (s.nextReply).stat = s.stat := rfl
@[simp] theorem State.nextReply_cs : (s.nextReply).cs = s.cs := rfl
@[simp] theorem State.nextReply_seq : (s.nextReply).seq = s.seq := rfl
@[simp] theorem State.nextReply_job : (s.nextReply).job = s.job := rfl
@[simp] theorem State.nextReply_q : (s.nextReply).q = s.q := rfl
@[simp] theorem State.nextReply_trace : (s.nextReply).trace = s.trace := rfl
@[simp] theorem State.nextReply_host : (s.nextReply).host = s.host := rfl
@[simp] theorem State.nextReply_bus : (s.nextReply).bus = s.bus.tail := rfl
@[simp] theorem State.nextReply_draws : (s.nextReply).draws = s.draws := rfl
@[simp] theorem State.nextReply_par : (s.nextReply).par = s.par := rfl

@[simp] theorem State.suspend_cfg (j : Job) : (s.suspend j).cfg = s.cfg := rfl
@[simp] theorem State.suspend_conv (j : Job) : (s.suspend j).conv = s.conv := rfl
@[simp] theorem State.suspend_stat (j : Job) : (s.suspend j).stat = s.stat := rfl
@[simp] theorem State.suspend_cs (j : Job) : (s.suspend j).cs = s.cs := rfl
@[simp] theorem State.suspend_seq (j : Job) : (s.suspend j).seq = s.seq := rfl
@[simp] theorem State.suspend_job (j : Job) : (s.suspend j).job = some j := rfl
@[simp] theorem State.suspend_q (j : Job) : (s.suspend j).q = s.q := rfl
@[simp] theorem State.suspend_trace (j : Job) : (s.suspend j).trace = s.trace := rfl
@[simp] theorem State.suspend_host (j : Job) : (s.suspend j).host = s.host := rfl
@[simp] theorem State.suspend_bus (j : Job) : (s.suspend j).bus = s.bus := rfl
@[simp] theorem State.suspend_draws (j : Job) : (s.suspend j).draws = s.draws := rfl
@[simp] theorem State.suspend_par (j : Job) : (s.suspend j).par = s.par := rfl

@[simp] theorem State.unsuspend_cfg : (s.unsuspend).cfg = s.cfg := rfl
@[simp] theorem State.unsuspend_conv : (s.unsuspend).conv = s.conv := rfl
@[simp] theorem State.unsuspend_stat : (s.unsuspend).stat = s.stat := rfl
@[simp] theorem State.unsuspend_cs : (s.unsuspend).cs = s.cs := rfl
@[simp] theorem State.unsuspend_seq : (s.unsuspend).seq = s.seq := rfl
@[simp] theorem State.unsuspend_job : (s.unsuspend).job = none := rfl
@[simp] theorem State.unsuspend_q : (s.unsuspend).q = s.q := rfl
@[simp] theorem State.unsuspend_trace : (s.unsuspend).trace = s.trace := rfl
@[simp] theorem State.unsuspend_host : (s.unsuspend).host = s.host := rfl
@[simp] theorem State.unsuspend_bus : (s.unsuspend).bus = s.bus := rfl
@[simp] theorem State.unsuspend_draws : (s.unsuspend).draws = s.draws := rfl
@[simp] theorem State.unsuspend_par : (s.unsuspend).par = s.par := rfl

@[simp] theorem State.taken_cfg : (s.taken).cfg = s.cfg := rfl
@[simp] theorem State.taken_conv : (s.taken).conv = s.conv := rfl
@[simp] theorem State.taken_stat : (s.taken).stat = s.stat := rfl
@[simp] theorem State.taken_cs : (s.taken).cs = s.cs := rfl
@[simp] theorem State.taken_seq : (s.taken).seq = s.seq := rfl
@[simp] theorem State.taken_job : (s.taken).job = s.job := rfl
@[simp] theorem State.taken_q : (s.taken).q = s.q := rfl
@[simp] theorem State.taken_trace : (s.taken).trace = s.trace := rfl
@[simp] theorem State.taken_host : (s.taken).host = s.host.tail := rfl
@[simp] theorem State.taken_bus : (s.taken).bus = s.bus := rfl
@[simp] theorem State.taken_draws : (s.taken).draws = s.draws := rfl
@[simp] theorem State.taken_par : (s.taken).par = s.par := rfl

end Sys2Proof.Machine
end

