-- ==== Sys2Proof/Laws/Fields.lean ====
section
/-! SUPPORT. Named fields under admitted parameters (10_state.md R28): what the check gives for each descriptor, and reading any
field after any field is written. -/

namespace Sys2Proof.Machine

theorem Field_mem_all (f : Field) : f ∈ Field.all := by cases f <;> decide

theorem admitted_of_ok {p : Params} (h : p.ok = true) : p.map.admitted = true := by
  simp only [Params.ok, Bool.and_eq_true] at h
  exact h.1.1

theorem desc_ok {p : Params} (h : p.ok = true) (f : Field) : (p.map.desc f).ok = true := by
  have h := admitted_of_ok h
  simp only [FieldMap.admitted, FieldMap.inRange, Bool.and_eq_true, List.all_eq_true] at h
  exact (h.1.1.1.1 f (Field_mem_all f)).1

theorem desc_width {p : Params} (h : p.ok = true) (f : Field) : (p.map.desc f).width = f.width := by
  have h := admitted_of_ok h
  simp only [FieldMap.admitted, FieldMap.inRange, Bool.and_eq_true, List.all_eq_true, beq_iff_eq] at h
  exact (h.1.1.1.1 f (Field_mem_all f)).2

theorem desc_disjoint {p : Params} (h : p.ok = true) {f g : Field} (hfg : f ≠ g) :
    (p.map.desc f).disjoint (p.map.desc g) = true := by
  have h := admitted_of_ok h
  simp only [FieldMap.admitted, FieldMap.noOverlap, Bool.and_eq_true, List.all_eq_true, Bool.or_eq_true, beq_iff_eq] at h
  exact (h.1.1.1.2 f (Field_mem_all f) g (Field_mem_all g)).resolve_left hfg

variable {s : State}

/-- A field written with v reads v reduced to its width. -/
theorem get_put_self (h : s.par.ok = true) (f : Field) (v : Int) : (s.put f v).get f = (v % 2 ^ f.width).toNat := by
  rw [State.get, State.put_cfg, State.put_par, fieldGet_fieldSet_self _ _ (desc_ok h f), desc_width h]

/-- Every other field reads as before. -/
theorem get_put_ne (h : s.par.ok = true) {f g : Field} (hfg : f ≠ g) (v : Int) : (s.put f v).get g = s.get g :=
  fieldGet_fieldSet_of_disjoint _ _ _ (desc_ok h f) (desc_ok h g) (desc_disjoint h hfg) v

theorem get_put (h : s.par.ok = true) (f g : Field) (v : Int) :
    (s.put f v).get g = if f = g then (v % 2 ^ f.width).toNat else s.get g := by
  split
  · next hfg => subst hfg; exact get_put_self h f v
  · next hfg => exact get_put_ne h hfg v

theorem get_lt (h : s.par.ok = true) (f : Field) : s.get f < 2 ^ f.width := by
  have := fieldGet_lt s.cfg (s.par.map.desc f)
  rwa [desc_width h] at this

theorem wf_put (h : s.cfg.wf = true) (f : Field) (v : Int) : (s.put f v).cfg.wf = true := wf_fieldSet h _ _

/-! Updates that do not touch the image do not change what a field reads. -/

@[simp] theorem get_ret (v : Option Value) (g : Field) : (s.ret v).get g = s.get g := rfl
@[simp] theorem get_setConv (v : Rat) (g : Field) : (s.setConv v).get g = s.get g := rfl
@[simp] theorem get_setStat (v : Half) (g : Field) : (s.setStat v).get g = s.get g := rfl
@[simp] theorem get_drawn (g : Field) : s.drawn.get g = s.get g := rfl
@[simp] theorem get_select (k : BitVec 3) (g : Field) : (s.select k).get g = s.get g := rfl
@[simp] theorem get_release (g : Field) : s.release.get g = s.get g := rfl
@[simp] theorem get_record (x : Xfer) (rx : Byte) (g : Field) : (s.record x rx).get g = s.get g := rfl
@[simp] theorem get_nextReply (g : Field) : s.nextReply.get g = s.get g := rfl
@[simp] theorem get_suspend (j : Job) (g : Field) : (s.suspend j).get g = s.get g := rfl
@[simp] theorem get_unsuspend (g : Field) : s.unsuspend.get g = s.get g := rfl
@[simp] theorem get_taken (g : Field) : s.taken.get g = s.get g := rfl

end Sys2Proof.Machine
end

