-- ==== Sys2Proof/Laws/Bus.lean ====
section
/-! SUPPORT. The bus: what one `BusXfer` can do, what the transfers of an operation can do, and what they do when every transfer
returns at once (20_memory.md R60 to R64, 47_transactions.md R230). -/

namespace Sys2Proof.Machine

/-! ### One transfer -/

/-- A `BusXfer` that returns uses up one reply, if any, and records the event with the reply's byte; one that has not
returned changes nothing but the script. -/
theorem busXfer_cases (s : State) (x : Xfer) :
    (prompt 1 s ∧ busXfer s x = .returned (answer s 0) (s.nextReply.record x (answer s 0))) ∨
    (∃ rest, s.bus = .notYet :: rest ∧ busXfer s x = .waits s.nextReply) ∨
    (∃ rest, s.bus = .never :: rest ∧ busXfer s x = .waits s) := by
  have one : ∀ {p : Nat → Prop}, p 0 → ∀ k < 1, p k := by
    intro p h k hk; obtain rfl : k = 0 := by omega
    exact h
  rcases hb : s.bus with _ | ⟨_ | _ | _, rest⟩
  · refine .inl ⟨one (.inl (by simp [hb])), ?_⟩
    have : s.nextReply = s := by cases s; simp_all [State.nextReply]
    simp [busXfer, hb, answer, this]
  · next rx => exact .inl ⟨one (.inr ⟨rx, by simp [hb]⟩), by simp [busXfer, hb, answer]⟩
  · exact .inr (.inl ⟨rest, rfl, by simp [busXfer, hb]⟩)
  · exact .inr (.inr ⟨rest, rfl, by simp [busXfer, hb]⟩)

theorem busXfer_of_prompt {s : State} (h : prompt 1 s) (x : Xfer) :
    busXfer s x = .returned (answer s 0) (s.nextReply.record x (answer s 0)) := by
  rcases busXfer_cases s x with ⟨-, h'⟩ | ⟨rest, hb, -⟩ | ⟨rest, hb, -⟩
  · exact h'
  all_goals
    have := h 0 (by omega)
    simp [hb] at this

/-- The end of an operation changes the result port, and `STAT` for a status read, and nothing else. -/
theorem finish_cases (fin : Finish) (got : List Byte) (s : State) :
    ∃ v, finish fin got s = s.ret v ∨
      (fin = .status ∧ finish fin got s = (s.setStat (BitVec.ofNat 16 (be got))).ret v) := by
  cases fin
  · exact ⟨_, .inl rfl⟩
  · exact ⟨_, .inl rfl⟩
  · exact ⟨_, .inr ⟨rfl, rfl⟩⟩
  · exact ⟨_, .inl rfl⟩
  · exact ⟨_, .inl rfl⟩

@[simp] theorem finish_cfg (fin : Finish) (got : List Byte) (s : State) : (finish fin got s).cfg = s.cfg := by
  cases fin <;> rfl
@[simp] theorem finish_conv (fin : Finish) (got : List Byte) (s : State) : (finish fin got s).conv = s.conv := by
  cases fin <;> rfl
@[simp] theorem finish_cs (fin : Finish) (got : List Byte) (s : State) : (finish fin got s).cs = s.cs := by
  cases fin <;> rfl
@[simp] theorem finish_seq (fin : Finish) (got : List Byte) (s : State) : (finish fin got s).seq = s.seq := by
  cases fin <;> rfl
@[simp] theorem finish_job (fin : Finish) (got : List Byte) (s : State) : (finish fin got s).job = s.job := by
  cases fin <;> rfl
@[simp] theorem finish_trace (fin : Finish) (got : List Byte) (s : State) : (finish fin got s).trace = s.trace := by
  cases fin <;> rfl
@[simp] theorem finish_host (fin : Finish) (got : List Byte) (s : State) : (finish fin got s).host = s.host := by
  cases fin <;> rfl
@[simp] theorem finish_bus (fin : Finish) (got : List Byte) (s : State) : (finish fin got s).bus = s.bus := by
  cases fin <;> rfl
@[simp] theorem finish_draws (fin : Finish) (got : List Byte) (s : State) : (finish fin got s).draws = s.draws := by
  cases fin <;> rfl
@[simp] theorem finish_par (fin : Finish) (got : List Byte) (s : State) : (finish fin got s).par = s.par := by
  cases fin <;> rfl

theorem finish_stat {fin : Finish} (h : fin ≠ .status) (got : List Byte) (s : State) :
    (finish fin got s).stat = s.stat := by
  cases fin <;> first | rfl | exact absurd rfl h

/-! ### The transfers of an operation -/

/-- The state in which the transfers after the first go on, when the first has returned. -/
def afterXfer (s : State) (x : Xfer) : State :=
  let t := (s.select x.seq).nextReply.record x (answer s 0)
  if x.hold then t else t.release

@[simp] theorem afterXfer_cfg (s : State) (x : Xfer) : (afterXfer s x).cfg = s.cfg := by
  unfold afterXfer; dsimp only; split <;> rfl
@[simp] theorem afterXfer_conv (s : State) (x : Xfer) : (afterXfer s x).conv = s.conv := by
  unfold afterXfer; dsimp only; split <;> rfl
@[simp] theorem afterXfer_stat (s : State) (x : Xfer) : (afterXfer s x).stat = s.stat := by
  unfold afterXfer; dsimp only; split <;> rfl
@[simp] theorem afterXfer_job (s : State) (x : Xfer) : (afterXfer s x).job = s.job := by
  unfold afterXfer; dsimp only; split <;> rfl
@[simp] theorem afterXfer_q (s : State) (x : Xfer) : (afterXfer s x).q = s.q := by
  unfold afterXfer; dsimp only; split <;> rfl
@[simp] theorem afterXfer_host (s : State) (x : Xfer) : (afterXfer s x).host = s.host := by
  unfold afterXfer; dsimp only; split <;> rfl
@[simp] theorem afterXfer_par (s : State) (x : Xfer) : (afterXfer s x).par = s.par := by
  unfold afterXfer; dsimp only; split <;> rfl
@[simp] theorem afterXfer_bus (s : State) (x : Xfer) : (afterXfer s x).bus = s.bus.tail := by
  unfold afterXfer; dsimp only; split <;> rfl
@[simp] theorem afterXfer_draws (s : State) (x : Xfer) : (afterXfer s x).draws = s.draws + 1 := by
  unfold afterXfer; dsimp only; split <;> rfl
@[simp] theorem afterXfer_trace (s : State) (x : Xfer) :
    (afterXfer s x).trace = s.trace ++ [⟨x.tx, x.hold, answer s 0⟩] := by
  unfold afterXfer; dsimp only; split <;> rfl

/-- The transfers of an operation with at least one to do: the first returns and the rest go on, or it has not returned and
the operation stays in progress with chip-select held at its index. -/
theorem transfer_cons (fin : Finish) (x : Xfer) (xs : List Xfer) (got : List Byte) (s : State) :
    (prompt 1 s ∧ transfer fin (x :: xs) got s =
      transfer fin xs (collect got x (answer s 0)) (afterXfer s x)) ∨
    (¬ prompt 1 s ∧ ∃ t, (t = s ∨ t = s.nextReply) ∧
      transfer fin (x :: xs) got s = (t.select x.seq).suspend ⟨x :: xs, got, fin⟩) := by
  have nope : ∀ r rest, s.bus = r :: rest → (∀ b, r ≠ .byte b) → ¬ prompt 1 s := by
    intro r rest hb hr h
    rcases h 0 (by omega) with h | ⟨b, h⟩
    · simp [hb] at h
    · simp [hb] at h; exact hr b h
  rcases busXfer_cases (s.select x.seq) x with ⟨hp, h⟩ | ⟨rest, hb, h⟩ | ⟨rest, hb, h⟩
  · refine .inl ⟨hp, ?_⟩
    rw [transfer, h]
    rfl
  · exact .inr ⟨nope _ rest hb (by simp), s.nextReply, .inr rfl, by rw [transfer, h]; rfl⟩
  · exact .inr ⟨nope _ rest hb (by simp), s, .inl rfl, by rw [transfer, h]⟩

/-- The transfers of an operation never touch the image, the factor, the host's list or the parameters. -/
theorem transfer_frame (fin : Finish) (xs : List Xfer) (got : List Byte) (s : State) :
    (transfer fin xs got s).cfg = s.cfg ∧ (transfer fin xs got s).conv = s.conv ∧
    (transfer fin xs got s).host = s.host ∧ (transfer fin xs got s).par = s.par ∧
    (fin ≠ .status → (transfer fin xs got s).stat = s.stat) := by
  induction xs generalizing got s with
  | nil => simp +contextual [transfer, finish_stat]
  | cons x xs ih =>
    rcases transfer_cons fin x xs got s with ⟨-, h⟩ | ⟨-, t, ht, h⟩
    · rw [h]
      simpa using ih (collect got x (answer s 0)) (afterXfer s x)
    · rw [h]
      rcases ht with rfl | rfl <;> simp

/-- What is sent and what is still to send together do not change: a transfer moves from the second to the first. -/
theorem transfer_sent (fin : Finish) (xs : List Xfer) (got : List Byte) (s : State) (hj : s.job = none) :
    sent (transfer fin xs got s) ++ toSend (transfer fin xs got s) =
      sent s ++ xs.map fun x => (x.tx, x.hold) := by
  induction xs generalizing got s with
  | nil => simp [transfer, sent, toSend, hj]
  | cons x xs ih =>
    rcases transfer_cons fin x xs got s with ⟨-, h⟩ | ⟨-, t, ht, h⟩
    · rw [h, ih _ _ (by simpa using hj)]
      simp [sent]
    · rw [h]
      rcases ht with rfl | rfl <;> simp [sent, toSend]

/-- The bookkeeping of the framer is kept: after the transfers either nothing is held or the operation stays in progress and
`JobHeld` says how. -/
theorem transfer_held (fin : Finish) (xs : List Xfer) (got : List Byte) (s : State) (hj : s.job = none)
    (hx : seqRuns xs = true) (hn : xs ≠ [])
    (hg : ∀ x ∈ xs.head?, x.seq ≠ 0 → got.length + 1 = x.seq.toNat) :
    match (transfer fin xs got s).job with
    | none => (transfer fin xs got s).cs = false ∧ (transfer fin xs got s).seq = 0
    | some j => JobHeld (transfer fin xs got s) j := by
  induction xs generalizing got s with
  | nil => exact absurd rfl hn
  | cons x xs ih =>
    rcases transfer_cons fin x xs got s with ⟨-, h⟩ | ⟨-, t, ht, h⟩
    · rw [h]
      cases xs with
      | nil =>
        have hh : x.hold = false := by simpa [seqRuns] using hx
        simp [transfer, hj, afterXfer, hh]
      | cons y ys =>
        simp only [seqRuns, Bool.and_eq_true] at hx
        refine ih _ _ (by simpa using hj) hx.2 (by simp) fun z hz hz0 => ?_
        obtain rfl : y = z := by simpa using hz
        cases hh : x.hold
        · simp [hh] at hx; exact absurd hx.1 hz0
        · simp only [hh, if_true, Bool.and_eq_true, beq_iff_eq, bne_iff_ne] at hx
          have hlt := x.seq.isLt
          by_cases h0 : x.seq = 0
          · simp [collect, h0, hx.1.1]
          · have := hg x (by simp) h0
            have h4 : x.seq.toNat < 7 := by
              by_contra hc
              have h7 : x.seq.toNat = 7 := by omega
              apply hz0
              rw [hx.1.1]
              apply BitVec.eq_of_toNat_eq
              simp [h7]
            rw [collect, if_neg h0, List.length_append, hx.1.1, BitVec.toNat_add]
            simp only [List.length_cons, List.length_nil]
            rw [show (1 : BitVec 3).toNat = 1 from rfl, Nat.mod_eq_of_lt (by omega)]
            omega
    · rw [h]
      have : JobHeld ((t.select x.seq).suspend ⟨x :: xs, got, fin⟩) ⟨x :: xs, got, fin⟩ :=
        ⟨rfl, hx, x, xs, rfl, rfl, hg x (by simp)⟩
      simpa using this

/-! ### Transfers that return at once -/

/-- The payload bytes collected from the k-th answer on. -/
def collectAll (s : State) : Nat → List Xfer → List Byte → List Byte
  | _, [], got => got
  | k, x :: xs, got => collectAll s (k + 1) xs (collect got x (answer s k))

theorem answer_afterXfer (s : State) (x : Xfer) (k : Nat) : answer (afterXfer s x) k = answer s (k + 1) := by
  unfold answer
  rw [afterXfer_bus, afterXfer_draws, List.getElem?_tail, Nat.add_assoc, Nat.add_comm 1 k]

theorem events_afterXfer (s : State) (x : Xfer) (k : Nat) (bs : List (Byte × Bool)) :
    events (afterXfer s x) k bs = events s (k + 1) bs := by
  induction bs generalizing k with
  | nil => rfl
  | cons b bs ih => simp [events, ih, answer_afterXfer]

theorem collectAll_afterXfer (s : State) (x : Xfer) (k : Nat) (xs : List Xfer) (got : List Byte) :
    collectAll (afterXfer s x) k xs got = collectAll s (k + 1) xs got := by
  induction xs generalizing k got with
  | nil => rfl
  | cons y ys ih => simp [collectAll, ih, answer_afterXfer]

theorem prompt_head {n : Nat} {s : State} (h : prompt (n + 1) s) : prompt 1 s := fun k hk => h k (by omega)

theorem prompt_afterXfer {n : Nat} {s : State} (h : prompt (n + 1) s) (x : Xfer) : prompt n (afterXfer s x) := by
  intro k hk
  have := h (k + 1) (by omega)
  rwa [afterXfer_bus, List.getElem?_tail]

/-- The transfers of an operation when every one returns at once: the last byte releases chip-select, every answer is in the
wire trace, and the operation ends with the payload bytes collected. -/
theorem transfer_of_prompt (fin : Finish) (xs : List Xfer) (got : List Byte) (s : State)
    (hx : ∃ ys y, xs = ys ++ [y] ∧ y.hold = false) (hp : prompt xs.length s) :
    transfer fin xs got s = finish fin (collectAll s 0 xs got)
      { s with trace := s.trace ++ events s 0 (xs.map fun x => (x.tx, x.hold)), bus := s.bus.drop xs.length,
               draws := s.draws + xs.length, cs := false, seq := 0 } := by
  induction xs generalizing got s with
  | nil => simp at hx
  | cons x xs ih =>
    rcases transfer_cons fin x xs got s with ⟨-, h⟩ | ⟨hn, -⟩
    · rw [h]
      cases xs with
      | nil =>
        obtain ⟨ys, y, e, hh⟩ := hx
        cases ys with
        | nil =>
          obtain rfl : x = y := by simpa using e
          simp [transfer, collectAll, afterXfer, hh, events, State.select, State.release, State.record, State.nextReply]
        | cons z zs => simp at e
      | cons y ys =>
        obtain ⟨zs, z, e, hh⟩ := hx
        cases zs with
        | nil => simp at e
        | cons w ws =>
          rw [ih _ _ ⟨ws, z, by simpa using (List.cons.inj e).2, hh⟩ (prompt_afterXfer hp x)]
          rw [collectAll_afterXfer, events_afterXfer]
          have : ∀ (t u : State), t = u → finish fin (collectAll s 1 (y :: ys) (collect got x (answer s 0))) t =
              finish fin (collectAll s 1 (y :: ys) (collect got x (answer s 0))) u := by rintro t u rfl; rfl
          refine this _ _ ?_
          unfold afterXfer
          dsimp only
          split <;> simp [State.select, State.release, State.record, State.nextReply, events, Nat.add_assoc,
            Nat.add_comm 1]
    · exact absurd (prompt_head hp) hn

end Sys2Proof.Machine
end

