-- ==== Sys2Proof/Laws/Frames.lean ====
section
/-! SUPPORT. The frames the block builds: their bytes, their `SEQ` values, and that a sequence of them is a sequence of whole
frames (30_encoding.md R81, R88, 47_transactions.md R230, R236). -/

namespace Sys2Proof.Machine

/-- The bytes and hold flags of transfers. -/
abbrev bytesOf (xs : List Xfer) : List (Byte × Bool) := xs.map fun x => (x.tx, x.hold)

theorem bytesOf_payloadXfers (k : Nat) (ps : List Byte) (rest : List (Byte × Bool)) :
    wholeFrames ps.length (bytesOf (payloadXfers k ps) ++ rest) = wholeFrames 0 rest := by
  induction ps generalizing k with
  | nil => rfl
  | cons p ps ih =>
    rw [payloadXfers, bytesOf, List.map_cons, List.cons_append, List.length_cons, wholeFrames]
    rw [show List.map (fun x : Xfer => (x.tx, x.hold)) (payloadXfers (k + 1) ps) = bytesOf (payloadXfers (k + 1) ps) from rfl, ih]
    cases ps <;> simp

/-- A frame with as many payload bytes as its opcode fixes is a whole frame, whatever follows. -/
theorem wholeFrames_frame {op : Byte} {ps : List Byte} (h : payloadLength op = some ps.length)
    (rest : List (Byte × Bool)) : wholeFrames 0 (bytesOf (frame op ps) ++ rest) = wholeFrames 0 rest := by
  rw [frame, bytesOf, List.map_cons, List.cons_append, wholeFrames, h]
  dsimp only
  rw [show List.map (fun x : Xfer => (x.tx, x.hold)) (payloadXfers 1 ps) = bytesOf (payloadXfers 1 ps) from rfl,
    bytesOf_payloadXfers]
  cases ps <;> simp

/-- Whole frames followed by whole frames are whole frames. -/
theorem wholeFrames_append (n : Nat) (xs ys : List (Byte × Bool)) (hx : wholeFrames n xs = true) :
    wholeFrames n (xs ++ ys) = wholeFrames 0 ys := by
  induction xs generalizing n with
  | nil =>
    cases n
    · rfl
    · simp [wholeFrames] at hx
  | cons x xs ih =>
    cases n with
    | zero =>
      rw [List.cons_append, wholeFrames]
      rw [wholeFrames] at hx
      cases hp : payloadLength x.1 with
      | none => simp [hp] at hx
      | some n =>
        simp only [hp, Bool.and_eq_true] at hx
        simp [hx.1, ih n hx.2]
    | succ n =>
      rw [wholeFrames, Bool.and_eq_true] at hx
      rw [List.cons_append, wholeFrames, hx.1, ih n hx.2, Bool.true_and]

theorem payloadLength_write (r : Reg) : payloadLength (Config.opWrite + BitVec.ofNat 8 r.val) = some 4 := by
  revert r; decide

theorem payloadLength_read (i : ResultReg) : payloadLength (Config.opRead + BitVec.ofNat 8 i.val) = some 4 := by
  revert i; decide

theorem wholeFrames_writeFrames (s : State) (rs : List Reg) (rest : List (Byte × Bool)) :
    wholeFrames 0 (bytesOf (rs.flatMap (writeFrame s)) ++ rest) = wholeFrames 0 rest := by
  induction rs with
  | nil => rfl
  | cons r rs ih =>
    rw [List.flatMap_cons, bytesOf, List.map_append, List.append_assoc]
    exact (wholeFrames_frame (ps := regPayload s r) (payloadLength_write r) _).trans ih

/-- The bytes of a register-write frame. -/
theorem bytesOf_writeFrame (s : State) (r : Reg) : bytesOf (writeFrame s r) = writeBytes s r := rfl

/-- `SEQ` values of a frame with up to 4 payload bytes: 0, 1, ..., one a byte. -/
theorem seqRuns_frame (op : Byte) (ps : List Byte) (h : ps.length ≤ 4) : seqRuns (frame op ps) = true := by
  match ps, h with
  | [], _ => rfl
  | [_], _ => rfl
  | [_, _], _ => rfl
  | [_, _, _], _ => rfl
  | [_, _, _, _], _ => rfl

theorem seqRuns_writeFrames (s : State) (rs : List Reg) : seqRuns (rs.flatMap (writeFrame s)) = true := by
  induction rs with
  | nil => rfl
  | cons r rs ih =>
    cases rs with
    | nil => rfl
    | cons q rs =>
      rw [List.flatMap_cons] at ih ⊢
      rw [List.flatMap_cons]
      exact ih

/-- The last byte of a frame releases chip-select. -/
theorem frame_releases (op : Byte) (ps : List Byte) : ∃ ys y, frame op ps = ys ++ [y] ∧ y.hold = false := by
  have key : ∀ k (p : Byte) (ps : List Byte), ∃ ys y, payloadXfers k (p :: ps) = ys ++ [y] ∧ y.hold = false := by
    intro k p ps
    induction ps generalizing k p with
    | nil => exact ⟨[], _, rfl, rfl⟩
    | cons q qs ih =>
      obtain ⟨ys, y, h, hy⟩ := ih (k + 1) q
      exact ⟨⟨BitVec.ofNat 3 k, p, true⟩ :: ys, y, by rw [payloadXfers, h]; rfl, hy⟩
  cases ps with
  | nil => exact ⟨[], _, rfl, rfl⟩
  | cons p ps =>
    obtain ⟨ys, y, h, hy⟩ := key 1 p ps
    exact ⟨⟨0, op, true⟩ :: ys, y, by rw [frame, h]; rfl, hy⟩

theorem writeFrames_release (s : State) {rs : List Reg} (h : rs ≠ []) :
    ∃ ys y, rs.flatMap (writeFrame s) = ys ++ [y] ∧ y.hold = false := by
  obtain ⟨qs, r, rfl⟩ := List.eq_nil_or_concat rs |>.resolve_left h
  obtain ⟨ys, y, e, hy⟩ := frame_releases (Config.opWrite + BitVec.ofNat 8 r.val) (regPayload s r)
  refine ⟨qs.flatMap (writeFrame s) ++ ys, y, ?_, hy⟩
  simp only [List.concat_eq_append, List.flatMap_append, List.flatMap_cons, List.flatMap_nil, List.append_nil,
    List.append_assoc]
  rw [← e]
  rfl

theorem writeFrame_length (s : State) (r : Reg) : (writeFrame s r).length = 5 := rfl

theorem writeFrames_length (s : State) (rs : List Reg) : (rs.flatMap (writeFrame s)).length = 5 * rs.length := by
  induction rs with
  | nil => rfl
  | cons r rs ih => rw [List.flatMap_cons, List.length_append, ih, writeFrame_length, List.length_cons]; omega

theorem pushOrder_length {p : Params} (h : p.ok = true) : p.pushOrder.length = 7 := by
  simp only [Params.ok, Params.orderOk, Bool.and_eq_true, beq_iff_eq] at h
  exact h.2.1

end Sys2Proof.Machine
end

