-- ==== Sys2Proof/Laws/Exec.lean ====
section
/-! SUPPORT. What an instruction and a step can do, in outline: an operation takes effect only in an idle state, and a step is one of
five cases (92_eei_decisions.md D24, 00_scope.md R15). -/

namespace Sys2Proof.Machine

theorem perform_eq_next {s t u : State} : perform s t = .next u ↔ s.idle = true ∧ u = t := by
  unfold perform
  split
  · next h => simpa [h] using ⟨Eq.symm, Eq.symm⟩
  · next h => simp [h]

theorem perform_of_idle {s t : State} (h : s.idle = true) : perform s t = .next t := by simp [perform, h]

theorem perform_of_busy {s t : State} (h : s.idle = false) : perform s t = .refused .operationInProgress := by
  simp [perform, h]

theorem idle_iff {s : State} : s.idle = true ↔ s.job = none ∧ s.cs = false := by simp [State.idle]

/-- A step: the operation in progress goes on; or nothing is issued and nothing changes; or the block is reset; or the issued
instruction is executed; or an unknown selector selects nothing. -/
theorem step_next_cases {s t : State} (h : step s = .next t) :
    (∃ j, s.job = some j ∧ t = resume j s) ∨
    (s.job = none ∧ s.host = [] ∧ t = s) ∨
    (∃ rest, s.job = none ∧ s.host = .reset :: rest ∧ t = resetEvent s) ∨
    (∃ r rest i, s.job = none ∧ s.host = .issue r :: rest ∧ decode r = .ok i ∧ exec i s.taken = .next t) ∨
    (∃ r rest sel, s.job = none ∧ s.host = .issue r :: rest ∧ decode r = .error (.unknownOpsel sel) ∧
      t = selectNothing s) := by
  unfold step at h
  split at h
  · next j hj => exact .inl ⟨j, hj, by simpa using h.symm⟩
  · next hj =>
    split at h
    · next hh => exact .inr (.inl ⟨hj, hh, by simpa using h.symm⟩)
    · next rest hh => exact .inr (.inr (.inl ⟨rest, hj, hh, by simpa using h.symm⟩))
    · next r rest hh =>
      split at h
      · next i hd => exact .inr (.inr (.inr (.inl ⟨r, rest, i, hj, hh, hd, h⟩)))
      · next sel hd => exact .inr (.inr (.inr (.inr ⟨r, rest, sel, hj, hh, hd, by simpa using h.symm⟩)))
      · simp at h

/-- A frame (or frames) sent by an idle block while every transfer returns at once: the state after the frames, with the
operation's end applied to the payload bytes collected. -/
theorem transact_of_prompt {s : State} (hi : s.idle = true) (fin : Finish) (xs : List Xfer)
    (hx : ∃ ys y, xs = ys ++ [y] ∧ y.hold = false) (hp : prompt xs.length s) :
    transact fin xs s = finish fin (collectAll s 0 xs []) (afterFrames s (bytesOf xs)) := by
  obtain ⟨hj, hc⟩ := idle_iff.1 hi
  have hp' : prompt xs.length (s.ret none) := hp
  rw [transact, transfer_of_prompt fin xs [] (s.ret none) hx hp']
  have ha : ∀ k, answer (s.ret none) k = answer s k := fun _ => rfl
  have he : ∀ k bs, events (s.ret none) k bs = events s k bs := by
    intro k bs
    induction bs generalizing k with
    | nil => rfl
    | cons b bs ih => simp [events, ih, ha]
  have hcol : ∀ k ys got, collectAll (s.ret none) k ys got = collectAll s k ys got := by
    intro k ys
    induction ys generalizing k with
    | nil => intro got; rfl
    | cons y ys ih => intro got; simp [collectAll, ih, ha]
  rw [hcol, he]
  have : ∀ t u : State, t = u → finish fin (collectAll s 0 xs []) t = finish fin (collectAll s 0 xs []) u := by
    rintro t u rfl; rfl
  apply this
  simp [afterFrames, hc]

/-- An operation on the bus keeps the image, the factor, the host's list and the parameters; only a status read may write
`STAT`. -/
theorem transact_frame (fin : Finish) (xs : List Xfer) (s : State) :
    (transact fin xs s).cfg = s.cfg ∧ (transact fin xs s).conv = s.conv ∧ (transact fin xs s).host = s.host ∧
    (transact fin xs s).par = s.par ∧ (fin ≠ .status → (transact fin xs s).stat = s.stat) :=
  transfer_frame fin xs [] (s.ret none)

end Sys2Proof.Machine
end

