-- ==== Sys2Proof/Laws/PerInstr.lean ====
section
/-! SUPPORT. Statements made instruction by instruction: one lemma per constructor of Instr. -/

/-- The encoder leaves every operand port that the operation does not use at 0 (30_encoding.md R89, columns A and B). -/
def Sys2Proof.Laws.CanonicalEncoding.Statement (i : Sys2Proof.Instr) : Prop :=
  (Sys2Proof.encode i).canonical = true

namespace Sys2Proof.Laws.CanonicalEncoding

theorem wReset : Statement .wReset := rfl
theorem wInit : Statement .wInit := rfl
theorem wWrite0 : Statement .wWrite0 := rfl
theorem wWrite1 : Statement .wWrite1 := rfl
theorem wWrite2 : Statement .wWrite2 := rfl
theorem wWrite3 : Statement .wWrite3 := rfl
theorem wWrite4 : Statement .wWrite4 := rfl
theorem wWrite5 : Statement .wWrite5 := rfl
theorem wWrite6 : Statement .wWrite6 := rfl
theorem wReadRes0 : Statement .wReadRes0 := rfl
theorem wReadRes1 : Statement .wReadRes1 := rfl
theorem wReadRes2 : Statement .wReadRes2 := rfl
theorem wReadRes3 : Statement .wReadRes3 := rfl
theorem wReadStat : Statement .wReadStat := rfl
theorem wReadReg1Hi : Statement .wReadReg1Hi := rfl
theorem setSingle : Statement .setSingle := rfl
theorem setDouble : Statement .setDouble := rfl
theorem setQuad : Statement .setQuad := rfl
theorem isSingle : Statement .isSingle := rfl
theorem isDouble : Statement .isDouble := rfl
theorem isQuad : Statement .isQuad := rfl
theorem setMeasMode (m : Int) : Statement (.setMeasMode m) := rfl
theorem getMeasMode : Statement .getMeasMode := rfl
theorem setPrediv (n : Int) : Statement (.setPrediv n) := rfl
theorem getPrediv : Statement .getPrediv := rfl
theorem setHits (ch n : Int) : Statement (.setHits ch n) := rfl
theorem getHits (ch : Int) : Statement (.getHits ch) := rfl
theorem setHitOp (k v : Int) : Statement (.setHitOp k v) := rfl
theorem getHitOp (k : Int) : Statement (.getHitOp k) := rfl
theorem setStartEdge (e : Int) : Statement (.setStartEdge e) := rfl
theorem getStartEdge : Statement .getStartEdge := rfl
theorem setStopEdge (ch e : Int) : Statement (.setStopEdge ch e) := rfl
theorem getStopEdge (ch : Int) : Statement (.getStopEdge ch) := rfl
theorem setOffset (x : Int) : Statement (.setOffset x) := rfl
theorem getOffset : Statement .getOffset := rfl
theorem setDelrel (k v : Int) : Statement (.setDelrel k v) := rfl
theorem getDelrel (k : Int) : Statement (.getDelrel k) := rfl
theorem cmdReset : Statement .cmdReset := rfl
theorem cmdInit : Statement .cmdInit := rfl
theorem writeReg (r : Int) : Statement (.writeReg r) := rfl
theorem pushConfig : Statement .pushConfig := rfl
theorem readResult (i : Int) : Statement (.readResult i) := rfl
theorem readStatus : Statement .readStatus := rfl
theorem readReg1Hi : Statement .readReg1Hi := rfl
theorem testComms : Statement .testComms := rfl
theorem snapshot : Statement .snapshot := rfl
theorem statusPointer : Statement .statusPointer := rfl
theorem statusHits1 : Statement .statusHits1 := rfl
theorem statusHits2 : Statement .statusHits2 := rfl
theorem statusTimeout : Statement .statusTimeout := rfl
theorem convert (raw : Int) : Statement (.convert raw) := rfl

end Sys2Proof.Laws.CanonicalEncoding
end

