-- ==== Sys2Proof/Laws/Setters.lean ====
section
/-! SUPPORT. What setters do to the image, said with `FieldsWritten` and `SetterEffect`: one field, then fields one after the other;
and equality of canonical images from the bits of their registers. -/

namespace Sys2Proof.Machine

/-- Canonical images whose registers have the same bits are equal. -/
theorem Cfg.ext_of_bits {c c' : Cfg} (hc : c.wf = true) (hc' : c'.wf = true)
    (h : ∀ (r : Reg) i, i < 32 → (c.reg r).getLsbD i = (c'.reg r).getLsbD i) : c = c' := by
  refine Cfg.ext_of_wf hc hc' fun a => ?_
  by_cases ha : a < 28
  · apply BitVec.eq_of_getLsbD_eq
    intro j hj
    have := h ⟨a / 4, by omega⟩ (8 * (3 - a % 4) + j) (by omega)
    rw [getLsbD_reg _ _ _ (by omega), getLsbD_reg _ _ _ (by omega), Cfg.regByte, Cfg.regByte] at this
    simp only at this
    rwa [show 4 * (a / 4) + (3 - (8 * (3 - a % 4) + j) / 8) = a by omega,
      show (8 * (3 - a % 4) + j) % 8 = j by omega] at this
  · have out : ∀ c : Cfg, (∀ p ∈ c, p.1 ≠ a) → c.byte a = resetByte a := by
      intro c hne
      induction c with
      | nil => rfl
      | cons p c ih =>
        rw [Cfg.byte, if_neg (hne p (by simp))]
        exact ih fun q hq => hne q (by simp [hq])
    have none_at : ∀ {c : Cfg}, c.wf = true → ∀ p ∈ c, p.1 ≠ a := fun {c} hc p hp => by
      have := (((Cfg.wf_iff c).1 hc).2 p hp).1
      omega
    rw [out c (none_at hc), out c' (none_at hc')]

variable {s : State}

/-- One field written. -/
theorem fieldsWritten_put (h : s.par.ok = true) (f : Field) (v : Int) {n : Nat} (hn : n = (v % 2 ^ f.width).toNat) :
    FieldsWritten [(f, n)] s (s.put f v) := by
  refine ⟨?_, ?_, ?_, ?_⟩
  · simp [get_put_self h, hn]
  · intro g hg; exact get_put_ne h (by simpa [eq_comm] using hg) v
  · intro r i hi hf
    rw [State.put_cfg, getLsbD_reg_fieldSet _ _ (desc_ok h f) _ _ _ hi, if_neg (by simp [hf f (by simp)])]
  · intro a ha
    have := ha f (by simp)
    rw [State.put_cfg, byte_fieldSet_outside]
    simpa [inWindow] using this

/-- Fields written one after the other, none of the first among the second. -/
theorem fieldsWritten_trans {fs gs : List (Field × Nat)} {t u : State} (hpar : t.par = s.par)
    (h1 : FieldsWritten fs s t) (h2 : FieldsWritten gs t u) (hd : ∀ p ∈ fs, p.1 ∉ gs.map Prod.fst) :
    FieldsWritten (fs ++ gs) s u := by
  have sub : ∀ {f}, f ∈ fs.map Prod.fst ∨ f ∈ gs.map Prod.fst → f ∈ (fs ++ gs).map Prod.fst := by
    intro f hf; rwa [List.map_append, List.mem_append]
  refine ⟨fun p hp => ?_, fun g hg => ?_, fun r i hi hf => ?_, fun a hf => ?_⟩
  · rcases List.mem_append.1 hp with hp | hp
    · rw [h2.2.1 p.1 (hd p hp), h1.1 p hp]
    · exact h2.1 p hp
  · rw [h2.2.1 g fun hm => hg (sub (.inr hm)), h1.2.1 g fun hm => hg (sub (.inl hm))]
  · rw [h2.2.2.1 r i hi fun f hm => by rw [hpar]; exact hf f (sub (.inr hm)),
      h1.2.2.1 r i hi fun f hm => hf f (sub (.inl hm))]
  · rw [h2.2.2.2 a fun f hm => by rw [hpar]; exact hf f (sub (.inr hm)), h1.2.2.2 a fun f hm => hf f (sub (.inl hm))]

/-- A setter that writes one field. -/
theorem setterEffect_one (h : s.par.ok = true) (f : Field) (v : Int) {n : Nat} (hn : n = (v % 2 ^ f.width).toNat) :
    SetterEffect [(f, n)] s ((s.put f v).ret none) :=
  ⟨fieldsWritten_put h f v hn, rfl⟩

/-- A setter that writes two fields. -/
theorem setterEffect_two (h : s.par.ok = true) {f g : Field} (hfg : f ≠ g) (v w : Int) {n m : Nat}
    (hn : n = (v % 2 ^ f.width).toNat) (hm : m = (w % 2 ^ g.width).toNat) :
    SetterEffect [(f, n), (g, m)] s (((s.put f v).put g w).ret none) :=
  ⟨fieldsWritten_trans (fs := [(f, n)]) (gs := [(g, m)]) (t := s.put f v) rfl (fieldsWritten_put h f v hn)
    (fieldsWritten_put (by simpa using h) g w hm) (by simpa using hfg), rfl⟩

/-- A setter that writes three fields. -/
theorem setterEffect_three (h : s.par.ok = true) {f g k : Field} (hfg : f ≠ g) (hfk : f ≠ k) (hgk : g ≠ k) (v w x : Int)
    {n m l : Nat} (hn : n = (v % 2 ^ f.width).toNat) (hm : m = (w % 2 ^ g.width).toNat)
    (hl : l = (x % 2 ^ k.width).toNat) :
    SetterEffect [(f, n), (g, m), (k, l)] s ((((s.put f v).put g w).put k x).ret none) :=
  ⟨fieldsWritten_trans (fs := [(f, n)]) (gs := [(g, m), (k, l)]) (t := s.put f v) rfl (fieldsWritten_put h f v hn)
    (fieldsWritten_trans (fs := [(g, m)]) (gs := [(k, l)]) (t := (s.put f v).put g w) rfl
      (fieldsWritten_put (by simpa using h) g w hm) (fieldsWritten_put (by simpa using h) k x hl)
      (by simpa using hgk)) (by simp [hfg, hfk]), rfl⟩

end Sys2Proof.Machine
end

