-- ==== Sys2Proof/Tests/Slice0.lean ====
section
/-! SUPPORT. Tests. Expected values are the spec's: encodings written out from 30_encoding.md R87 and R89, steps from 95_test_vectors.md
(the section is named at each group). Then, for every obligation with hypotheses, a witness that meets them. -/

namespace Sys2Proof.Tests

open Sys2Proof.Machine

/-! ### Helpers -/

/-- The state an outcome goes on in. -/
def after (o : Result) : Option State :=
  match o with
  | .next t => some t
  | .fault _ => none
  | .refused _ => none

/-- A state with register r of the image holding w. -/
def holding (r : Reg) (w : Word) (s : State) : State := { s with cfg := memWrite s.cfg (4 * r.val) 4 w }

/-- The reset state with these answers from the transport. -/
def answering (bs : List Byte) : State := { State.reset with bus := bs.map BusReply.byte }

/-- The reset state with this status snapshot. -/
def withStat (v : Half) : State := { State.reset with stat := v }

/-- The reset state with this request as the host's next action. -/
def asked (r : Request) : State := { State.reset with host := [.issue r] }

/-- The register r after an instruction. -/
def regAfter (i : Instr) (s : State) (r : Reg) : Option Word := (after (exec i s)).map fun t => t.cfg.reg r

/-- The result of an instruction. -/
def resultOf (i : Instr) (s : State) : Option Value := (after (exec i s)).bind fun t => t.q

/-- The bytes an instruction sends, with their hold flags. -/
def sends (i : Instr) (s : State) : Option (List (Byte × Bool)) := (after (exec i s)).map sent

/-- Mode 1 with single resolution. -/
def mode1 : State := holding 0 0xF3076000#32 (holding 6 0x40204000#32 State.reset)

/-- Mode 1 with the quad bit set: not legal, reached by no run. -/
def mode1Quad : State := holding 0 0xF3076000#32 State.reset

/-- Mode 2 with single resolution. -/
def single : State := holding 6 0x40204000#32 State.reset

/-- A register read whose second answer has not come. -/
def stalled : State := transact .result (frame 0xB0#8 [0, 0, 0, 0]) { State.reset with bus := [.byte 0x11#8, .notYet] }

/-! ### Well-formedness: a term each check refuses -/

theorem test_wf_default_params : Params.default.ok = true := by decide
theorem test_wf_refuses_empty_field : Desc.ok ⟨0, 8, 0⟩ = false := by decide
theorem test_wf_refuses_field_past_bit_31 : Desc.ok ⟨0, 30, 3⟩ = false := by decide
theorem test_wf_refuses_wrong_width :
    FieldMap.inRange { FieldMap.default with hitin1 := ⟨1, 16, 2⟩ } = false := by decide
theorem test_wf_refuses_overlap :
    FieldMap.noOverlap { FieldMap.default with hitin2 := ⟨1, 18, 3⟩ } = false := by decide
theorem test_wf_refuses_unpacked_delrel :
    FieldMap.delrelPacked { FieldMap.default with delrel2 := ⟨3, 15, 6⟩ } = false := by decide
theorem test_wf_refuses_split_nibbles :
    FieldMap.nibbles { FieldMap.default with hitop2 := ⟨2, 28, 4⟩ } = false := by decide
theorem test_wf_refuses_both_flag_beside_edge :
    FieldMap.bothElsewhere { FieldMap.default with stop1Both := ⟨0, 12, 1⟩ } = false := by decide
theorem test_wf_refuses_predivider_code : Params.codeOk { Params.default with predivCode4 := 1 } = false := by decide
theorem test_wf_refuses_push_order :
    Params.orderOk { Params.default with pushOrder := [0, 1, 2, 3, 4, 5, 5] } = false := by decide
theorem test_wf_refuses_operands :
    ∀ i ∈ [Instr.setMeasMode 3, .setPrediv 3, .setHits 1 5, .setHits 3 1, .setHits 1 (-1), .getHits 0, .setHitOp 3 5,
      .getHitOp 0, .setStartEdge 2, .setStopEdge 3 1, .setStopEdge 1 3, .getStopEdge 3, .setOffset 36, .setOffset (-37),
      .setDelrel 4 5, .getDelrel 0, .writeReg 7, .writeReg (-1), .readResult 4], i.wf = false := by decide
theorem test_wf_refuses_used_spare_port : Request.canonical (.op 0x09#8 2 1) = false := by decide
theorem test_wf_image_refuses_reset_byte : Cfg.wf [(0, 0xF3#8)] = false := by decide
theorem test_wf_image_refuses_order : Cfg.wf [(4, 0#8), (3, 1#8)] = false := by decide
theorem test_wf_image_refuses_address : Cfg.wf [(28, 1#8)] = false := by decide

/-! ### Decoding: every row's byte, written out (30_encoding.md R87, R89) -/

theorem test_decode_wire :
    decodeTableWord 8 0b01010000 = some .wReset ∧ decodeTableWord 8 0b01110000 = some .wInit ∧
    decodeTableWord 8 0b10000000 = some .wWrite0 ∧ decodeTableWord 8 0b10000001 = some .wWrite1 ∧
    decodeTableWord 8 0b10000010 = some .wWrite2 ∧ decodeTableWord 8 0b10000011 = some .wWrite3 ∧
    decodeTableWord 8 0b10000100 = some .wWrite4 ∧ decodeTableWord 8 0b10000101 = some .wWrite5 ∧
    decodeTableWord 8 0b10000110 = some .wWrite6 ∧ decodeTableWord 8 0b10110000 = some .wReadRes0 ∧
    decodeTableWord 8 0b10110001 = some .wReadRes1 ∧ decodeTableWord 8 0b10110010 = some .wReadRes2 ∧
    decodeTableWord 8 0b10110011 = some .wReadRes3 ∧ decodeTableWord 8 0b10110100 = some .wReadStat ∧
    decodeTableWord 8 0b10110101 = some .wReadReg1Hi := by decide

theorem test_decode_setters_and_getters :
    decodeTableWord 8 0b00000001 = some .setSingle ∧ decodeTableWord 8 0b00000010 = some .setDouble ∧
    decodeTableWord 8 0b00000011 = some .setQuad ∧ decodeTableWord 8 0b00000100 = some .isSingle ∧
    decodeTableWord 8 0b00000101 = some .isDouble ∧ decodeTableWord 8 0b00000110 = some .isQuad ∧
    decodeTableWord 8 0b00000111 = some (.setMeasMode 0) ∧ decodeTableWord 8 0b00001000 = some .getMeasMode ∧
    decodeTableWord 8 0b00001001 = some (.setPrediv 0) ∧ decodeTableWord 8 0b00001010 = some .getPrediv ∧
    decodeTableWord 8 0b00001011 = some (.setHits 0 0) ∧ decodeTableWord 8 0b00001100 = some (.getHits 0) ∧
    decodeTableWord 8 0b00001101 = some (.setHitOp 0 0) ∧ decodeTableWord 8 0b00001110 = some (.getHitOp 0) ∧
    decodeTableWord 8 0b00001111 = some (.setStartEdge 0) ∧ decodeTableWord 8 0b00010000 = some .getStartEdge ∧
    decodeTableWord 8 0b00010001 = some (.setStopEdge 0 0) ∧ decodeTableWord 8 0b00010010 = some (.getStopEdge 0) ∧
    decodeTableWord 8 0b00010011 = some (.setOffset 0) ∧ decodeTableWord 8 0b00010100 = some .getOffset ∧
    decodeTableWord 8 0b00010101 = some (.setDelrel 0 0) ∧ decodeTableWord 8 0b00010110 = some (.getDelrel 0) := by
  decide

theorem test_decode_transactions_and_status :
    decodeTableWord 8 0b00010111 = some .cmdReset ∧ decodeTableWord 8 0b00011000 = some .cmdInit ∧
    decodeTableWord 8 0b00011001 = some (.writeReg 0) ∧ decodeTableWord 8 0b00011010 = some .pushConfig ∧
    decodeTableWord 8 0b00011011 = some (.readResult 0) ∧ decodeTableWord 8 0b00011100 = some .readStatus ∧
    decodeTableWord 8 0b00011101 = some .readReg1Hi ∧ decodeTableWord 8 0b00011110 = some .testComms ∧
    decodeTableWord 8 0b00011111 = some .snapshot ∧ decodeTableWord 8 0b00100000 = some .statusPointer ∧
    decodeTableWord 8 0b00100001 = some .statusHits1 ∧ decodeTableWord 8 0b00100010 = some .statusHits2 ∧
    decodeTableWord 8 0b00100011 = some .statusTimeout ∧ decodeTableWord 8 0b00100100 = some (.convert 0) := by decide

theorem test_decode_operand_ports :
    (decode (.op 0x0B#8 1 3)).toOption = some (.setHits 1 3) ∧
    (decode (.op 0x0D#8 1 9)).toOption = some (.setHitOp 1 9) ∧
    (decode (.op 0x11#8 1 2)).toOption = some (.setStopEdge 1 2) ∧
    (decode (.op 0x15#8 3 60)).toOption = some (.setDelrel 3 60) ∧
    (decode (.op 0x13#8 (-25) 7)).toOption = some (.setOffset (-25)) := by decide

theorem test_decode_refuses_the_rest :
    decodeTableWord 8 0b00000000 = none ∧ decodeTableWord 8 0b00100101 = none ∧ decodeTableWord 8 0b10000111 = none ∧
    decodeTableWord 8 0b10110110 = none := by decide

/-! ### The field engine (95_test_vectors.md section 2.1) -/

theorem test_field_window_crosses_bytes :
    windowHi ⟨3, 14, 6⟩ = 1 ∧ windowLo ⟨3, 14, 6⟩ = 2 ∧ windowBytes ⟨3, 14, 6⟩ = 2 ∧ windowShift ⟨3, 14, 6⟩ = 6 ∧
    windowMask ⟨3, 14, 6⟩ = 0x0FC0#32 := by decide
theorem test_field_set_clears_only_its_bits :
    (fieldSet (holding 3 0xFFFFFFFF#32 State.reset).cfg ⟨3, 20, 6⟩ 0).reg 3 = 0xFC0FFFFF#32 ∧
    (fieldSet [] ⟨2, 7, 2⟩ 3).reg 2 = 0x20000180#32 ∧ (fieldSet [] ⟨5, 4, 12⟩ 2748).reg 5 = 0x4000ABC0#32 := by
  decide
theorem test_field_set_truncates :
    (fieldSet [] ⟨3, 14, 6⟩ 191).reg 3 = 0x200FC000#32 ∧ (fieldSet [] ⟨4, 8, 5⟩ (-5)).reg 4 = 0x20001B00#32 := by decide
theorem test_field_get_whole_register :
    fieldGet [] ⟨0, 0, 32⟩ = 4077348864 ∧ (fieldSet [] ⟨0, 0, 32⟩ 305419896).reg 0 = 0x12345678#32 := by decide
theorem test_image_write_of_reset_value_lists_nothing :
    fieldSet (fieldSet [] ⟨3, 14, 6⟩ 63) ⟨3, 14, 6⟩ 0 = [] := by decide

/-! ### Resolution and measurement mode (section 2.2) -/

theorem test_set_single : regAfter .setSingle State.reset 6 = some 0x40204000#32 := by decide
theorem test_set_double : regAfter .setDouble State.reset 6 = some 0x40205000#32 := by decide
theorem test_set_quad_in_mode2 : regAfter .setQuad single 6 = some 0x40206000#32 := by decide
theorem test_set_quad_in_mode1 : regAfter .setQuad mode1 6 = some 0x40204000#32 := by decide
theorem test_is_single : resultOf .isSingle single = some (.bool true) := by decide
theorem test_is_double : resultOf .isDouble (holding 6 0x40205000#32 State.reset) = some (.bool true) := by decide
theorem test_is_quad : resultOf .isQuad State.reset = some (.bool true) := by decide
theorem test_set_meas_mode_downgrades :
    regAfter (.setMeasMode 1) State.reset 0 = some 0xF3076000#32 ∧
    regAfter (.setMeasMode 1) State.reset 6 = some 0x40205000#32 := by decide
theorem test_set_meas_mode_ignores_3 : regAfter (.setMeasMode 3) State.reset 0 = some 0xF3076800#32 := by decide
theorem test_get_meas_mode :
    resultOf .getMeasMode State.reset = some (.num 2) ∧ resultOf .getMeasMode mode1 = some (.num 1) := by decide

/-! ### Pre-divider (section 2.3) -/

theorem test_set_prediv_4 :
    regAfter (.setPrediv 4) State.reset 0 = some 0xF3276800#32 ∧
    (after (exec (.setPrediv 4) State.reset)).map (fun t => t.conv) = some (1 / 65536) := by decide +kernel
theorem test_set_prediv_ignores_3 : regAfter (.setPrediv 3) (holding 0 0xF3176800#32 State.reset) 0 = some 0xF3176800#32 := by
  decide
theorem test_get_prediv :
    resultOf .getPrediv (holding 0 0xF3176800#32 State.reset) = some (.num 2) ∧
    resultOf .getPrediv (holding 0 0xF3376800#32 State.reset) = some (.num 4) := by decide
theorem test_conv_at_reset : State.reset.conv = 1 / 262144 := by decide +kernel

/-! ### Hit counts and operators (section 2.4) -/

theorem test_set_hits :
    regAfter (.setHits 1 4) State.reset 1 = some 0x21440000#32 ∧
    regAfter (.setHits 2 1) State.reset 1 = some 0x214A0000#32 := by decide
theorem test_set_hits_rejects :
    regAfter (.setHits 1 5) State.reset 1 = some 0x21420000#32 ∧
    regAfter (.setHits 0 1) State.reset 1 = some 0x21420000#32 := by decide
theorem test_get_hits :
    resultOf (.getHits 1) (holding 1 0x21630000#32 State.reset) = some (.num 3) ∧
    resultOf (.getHits 2) (holding 1 0x21630000#32 State.reset) = some (.num 4) := by decide
theorem test_set_hit_op :
    regAfter (.setHitOp 1 9) State.reset 1 = some 0x29420000#32 ∧
    regAfter (.setHitOp 2 (-1)) State.reset 1 = some 0xF1420000#32 := by decide
theorem test_get_hit_op :
    resultOf (.getHitOp 2) State.reset = some (.num 2) ∧ resultOf (.getHitOp 0) State.reset = some (.num 0) := by decide

/-! ### Edges (section 2.5) -/

theorem test_set_start_edge : regAfter (.setStartEdge 1) State.reset 0 = some 0xF3076900#32 := by decide
theorem test_set_start_edge_ignores_both :
    regAfter (.setStartEdge 2) (holding 0 0xF3076900#32 State.reset) 0 = some 0xF3076900#32 := by decide
theorem test_get_start_edge :
    resultOf .getStartEdge (holding 0 0xF3076900#32 State.reset) = some (.edge .falling) := by decide
theorem test_set_stop_edge_both :
    regAfter (.setStopEdge 1 2) (holding 0 0xF3076A00#32 State.reset) 0 = some 0xF3076800#32 ∧
    regAfter (.setStopEdge 1 2) (holding 0 0xF3076A00#32 State.reset) 2 = some 0x28000000#32 := by decide
theorem test_set_stop_edge_channel_2 : regAfter (.setStopEdge 2 1) State.reset 0 = some 0xF3076C00#32 := by decide
theorem test_get_stop_edge_both_first :
    resultOf (.getStopEdge 1) (holding 0 0xF3076A00#32 (holding 2 0x28000000#32 State.reset)) = some (.edge .both) := by
  decide
theorem test_get_stop_edge_other_channel : resultOf (.getStopEdge 3) State.reset = some (.edge .rising) := by decide

/-! ### Offset (section 2.6) -/

theorem test_set_offset :
    regAfter (.setOffset (-36)) State.reset 4 = some 0x20003000#32 ∧
    regAfter (.setOffset 16) State.reset 4 = some 0x20005C00#32 := by decide
theorem test_set_offset_clears_flags :
    regAfter (.setOffset 20) (holding 4 0x20003B00#32 State.reset) 4 = some 0x20004000#32 ∧
    regAfter (.setOffset 36) (holding 4 0x20003B00#32 State.reset) 4 = some 0x20003B00#32 := by decide
theorem test_get_offset :
    resultOf .getOffset (holding 4 0x20003B00#32 State.reset) = some (.num (-25)) ∧
    resultOf .getOffset (holding 4 0x20005000#32 State.reset) = some (.num 4) := by decide
theorem test_get_offset_both_flags_goes_on :
    (resultOf .getOffset (holding 4 0x20006000#32 State.reset)).isSome = true := by decide

/-! ### Relative delays (section 2.7) -/

theorem test_set_delrel :
    regAfter (.setDelrel 2 191) State.reset 3 = some 0x200FC000#32 ∧
    regAfter (.setDelrel 2 0) (holding 3 0xFFFFFFFF#32 State.reset) 3 = some 0xFFF03FFF#32 := by decide
theorem test_set_delrel_other_index : regAfter (.setDelrel 4 5) State.reset 3 = some 0x20000000#32 := by decide
theorem test_get_delrel :
    resultOf (.getDelrel 3) (holding 3 0x23C28300#32 State.reset) = some (.num 60) ∧
    resultOf (.getDelrel 2) (holding 3 0x23C28300#32 State.reset) = some (.num 10) := by decide

/-! ### Transactions (section 2.8) -/

theorem test_cmd_reset : sends .cmdReset State.reset = some [(0x50#8, false)] := by decide
theorem test_cmd_init : sends .cmdInit State.reset = some [(0x70#8, false)] := by decide
theorem test_write_reg : sends (.writeReg 6) State.reset =
    some [(0x86#8, true), (0x40#8, true), (0x20#8, true), (0x60#8, true), (0x00#8, false)] := by decide
theorem test_write_reg_7_sends_nothing : sends (.writeReg 7) State.reset = some [] := by decide
theorem test_push_config : sends .pushConfig State.reset = some
    ([(0x80#8, true), (0xF3#8, true), (0x07#8, true), (0x68#8, true), (0x00#8, false)] ++
     [(0x81#8, true), (0x21#8, true), (0x42#8, true), (0x00#8, true), (0x00#8, false)] ++
     [(0x82#8, true), (0x20#8, true), (0x00#8, true), (0x00#8, true), (0x00#8, false)] ++
     [(0x83#8, true), (0x20#8, true), (0x00#8, true), (0x00#8, true), (0x00#8, false)] ++
     [(0x84#8, true), (0x20#8, true), (0x00#8, true), (0x00#8, true), (0x00#8, false)] ++
     [(0x85#8, true), (0x40#8, true), (0x00#8, true), (0x00#8, true), (0x00#8, false)] ++
     [(0x86#8, true), (0x40#8, true), (0x20#8, true), (0x60#8, true), (0x00#8, false)]) := by decide +kernel
theorem test_read_result :
    resultOf (.readResult 2) (answering [0xEE#8, 0x12#8, 0x34#8, 0x56#8, 0x78#8]) = some (.word32 0x12345678#32) ∧
    sends (.readResult 2) (answering []) =
      some [(0xB2#8, true), (0x00#8, true), (0x00#8, true), (0x00#8, true), (0x00#8, false)] := by decide +kernel
theorem test_read_result_4 :
    resultOf (.readResult 4) State.reset = some (.word32 0) ∧ sends (.readResult 4) State.reset = some [] := by decide
theorem test_read_status :
    (after (exec .readStatus (answering [0xEE#8, 0x02#8, 0x4A#8]))).map (fun t => t.stat) = some 0x024A#16 := by decide
theorem test_read_reg1_hi : resultOf .readReg1Hi (answering [0xEE#8, 0x21#8]) = some (.word8 0x21#8) := by decide
theorem test_test_comms :
    resultOf .testComms (answering [0xEE#8, 0x21#8]) = some (.bool true) ∧
    resultOf .testComms (holding 1 0x29420000#32 (answering [0xEE#8, 0x21#8])) = some (.bool false) := by decide
theorem test_snapshot : resultOf .snapshot State.reset = some (.words [0xF3076800#32, 0x21420000#32, 0x20000000#32,
    0x20000000#32, 0x20000000#32, 0x40000000#32, 0x40206000#32]) := by decide
theorem test_transfer_in_progress_holds_the_chip :
    stalled.cs = true ∧ stalled.seq = 1#3 ∧ sent stalled = [(0xB0#8, true)] := by decide

/-! ### Wire opcodes (30_encoding.md R87, R88) -/

theorem test_wire_write :
    sends .wWrite1 State.reset = some [(0x81#8, true), (0x21#8, true), (0x42#8, true), (0x00#8, true), (0x00#8, false)] := by
  decide
theorem test_wire_read_status :
    sends .wReadStat (answering []) = some [(0xB4#8, true), (0x00#8, true), (0x00#8, false)] := by decide +kernel

/-! ### Status and conversion (section 2.9) -/

theorem test_status_pointer : resultOf .statusPointer (withStat 0xA5A5#16) = some (.num 5) := by decide
theorem test_status_hits1 : resultOf .statusHits1 (withStat 0xA5A5#16) = some (.num 4) := by decide
theorem test_status_hits2 : resultOf .statusHits2 (withStat 0xA5A5#16) = some (.num 6) := by decide
theorem test_status_timeout :
    resultOf .statusTimeout (withStat 0xF800#16) = some (.bool false) ∧
    resultOf .statusTimeout (withStat 0x0400#16) = some (.bool true) := by decide
theorem test_convert :
    resultOf (.convert 0x2A) State.reset = some (.micros (21 / 131072)) ∧
    resultOf (.convert 0x80000000) State.reset = some (.micros (-8192)) := by decide +kernel

/-! ### The step -/

theorem test_step_runs_the_fetched_word :
    (after (step (State.reset.withFetchWord 8 0b00000001))).map (fun t => t.cfg.reg 6) = some 0x40204000#32 := by decide
theorem test_step_unknown_selector :
    (after (step (asked (.op 0x25#8 1 1)))).map (fun t => (t.cfg, t.q, t.trace)) = some ([], none, []) := by decide
theorem test_step_goes_on_with_the_transfer :
    (after (step { stalled with bus := [.byte 1#8, .byte 2#8, .byte 3#8, .byte 4#8] })).map (fun t => (t.q, t.cs)) =
      some (some (.word32 0x01020304#32), false) := by decide +kernel

/-- Two resets draw two values of `STAT` (assumption log, rows 4 and 24), by their numbers. -/
theorem test_reset_event_draws_a_new_stat :
    State.reset.stat = Config.statReset 0 ∧ (resetEvent State.reset).stat = Config.statReset 1 ∧
    (resetEvent State.reset).draws = 2 := ⟨rfl, rfl, rfl⟩

/-! ### Witnesses: states and operands that meet the hypotheses of each obligation -/

/-- Scripted answers return at once. -/
theorem prompt_of_bytes (bs : List Byte) (n : Nat) : prompt n (answering bs) := by
  intro k _
  rcases h : (answering bs).bus[k]? with _ | r
  · exact .inl rfl
  · simp only [answering, List.getElem?_map, Option.map_eq_some_iff] at h
    obtain ⟨b, -, rfl⟩ := h
    exact .inr ⟨b, rfl⟩

/-- The two hypotheses most statements have. -/
abbrev Ready (s : State) : Prop := s.idle = true ∧ s.par.ok = true

theorem test_witness_MemWriteThenMemRead :
    (1 ≤ 4 ∧ 24 % 4 + 4 ≤ 4 ∧ 24 + 4 ≤ 28 ∧ (0x12345678#32).toNat < 2 ^ (8 * 4)) ∧
    (1 ≤ 1 ∧ 27 % 4 + 1 ≤ 4 ∧ 27 + 1 ≤ 28 ∧ (0xFF#32).toNat < 2 ^ (8 * 1)) ∧ Cfg.wf [(3, 0x01#8)] = true ∧
    ¬ (24 ≤ 23 ∧ 23 < 24 + 4) := by decide
theorem test_witness_FieldGetReadsRegisterSlice : Desc.ok ⟨0, 0, 32⟩ = true ∧ Desc.ok ⟨2, 7, 2⟩ = true := by decide
theorem test_witness_FieldSetIsMaskedUpdate :
    Desc.ok ⟨0, 0, 32⟩ = true ∧ Desc.ok ⟨6, 31, 1⟩ = true ∧ Cfg.wf [(3, 0x01#8)] = true ∧
    inWindow ⟨6, 31, 1⟩ 25 = false ∧ Desc.covers ⟨6, 31, 1⟩ 6 30 = false := by decide
theorem test_witness_FieldEngineLaws :
    Cfg.wf [(3, 0x01#8)] = true ∧ Desc.ok ⟨3, 8, 6⟩ = true ∧ Desc.ok ⟨3, 14, 6⟩ = true ∧
    Desc.disjoint ⟨3, 8, 6⟩ ⟨3, 14, 6⟩ = true ∧ Desc.covers ⟨3, 8, 6⟩ 3 14 = false := by decide
theorem test_witness_SetSingleAndSetDouble : Ready State.reset ∧ Ready mode1 := by decide
theorem test_witness_SetQuadOnlyInMode2 :
    Ready State.reset ∧ State.reset.get .mm = 1 ∧ Ready mode1 ∧ mode1.get .mm = 0 := by decide
theorem test_witness_SetMeasModeForcesDowngrade :
    Ready State.reset ∧ State.reset.get .quad = 1 ∧ Ready single ∧ single.get .quad = 0 ∧ (0 : Int) ≠ 1 ∧ (0 : Int) ≠ 2 := by
  decide
theorem test_witness_ResolutionAndModeGetters : State.reset.idle = true ∧ mode1.idle = true := by decide
theorem test_witness_ResolutionLegalityIsKept :
    Ready mode1Quad ∧ mode1Quad.get .mm = 0 ∧ (after (exec .setSingle mode1Quad)).isSome ∧
    (after (exec .setQuad mode1Quad)).isSome ∧ (after (exec (.setMeasMode 2) mode1Quad)).isSome ∧
    Ready State.reset ∧ State.reset.get .mm = 1 ∧ State.reset.get .double = 0 ∧ (after (exec .setQuad State.reset)).isSome ∧
    (after (exec .getPrediv State.reset)).isSome := by decide
theorem test_witness_QuadDependsOnModeOrder :
    Ready State.reset ∧ State.reset.get .quad = 1 ∧ Ready mode1 ∧ mode1.get .mm = 0 := by decide
theorem test_witness_SetPredivStoresCodeAndFactor :
    Ready State.reset ∧ ((4 : Int) = 4 ∧ 2 = State.reset.par.predivCode4) ∧ (3 : Int) ≠ 1 ∧ (3 : Int) ≠ 2 ∧ (3 : Int) ≠ 4 := by
  decide
theorem test_witness_GetPredivDecodesRawCode :
    Ready State.reset ∧ State.reset.get .prediv = 0 ∧
    Ready (holding 0 0xF3176800#32 State.reset) ∧ (holding 0 0xF3176800#32 State.reset).get .prediv = 1 ∧
    Ready (holding 0 0xF3376800#32 State.reset) ∧ (holding 0 0xF3376800#32 State.reset).get .prediv = 3 ∧
    ((4 : Int) = 1 ∨ (4 : Int) = 2 ∨ (4 : Int) = 4) ∧ (0 : Int) ≠ 1 ∧ (0 : Int) ≠ 2 ∧ (0 : Int) ≠ 4 := by decide
theorem test_witness_ConvFollowsPredivider :
    Params.default.ok = true ∧ Ready single ∧ ConvCoherent single ∧ (after (exec (.setPrediv 4) single)).isSome ∧
    (after (exec .cmdInit single)).isSome := ⟨by decide, by decide, rfl, by decide, by decide⟩
theorem test_witness_SetHitsStoresOrRejects :
    Ready State.reset ∧ ((2 : Int) = 2 ∧ Field.hitin2 = .hitin2 ∧ (0 : Int) ≤ 4 ∧ (4 : Int) ≤ 4) ∧
    ((3 : Int) ≠ 1 ∧ (3 : Int) ≠ 2) ∧ (-1 : Int) < 0 ∧ (4 : Int) < 5 := by decide
theorem test_witness_SetHitOpStoresNibble :
    Ready State.reset ∧ ((1 : Int) = 1 ∧ Field.hitop1 = .hitop1) ∧ (0 : Int) ≠ 1 ∧ (0 : Int) ≠ 2 := by decide
theorem test_witness_HitGettersReturnRawField : State.reset.idle = true ∧ (3 : Int) ≠ 1 ∧ (3 : Int) ≠ 2 := by decide
theorem test_witness_HitSettersAreIndependent :
    Ready State.reset ∧ ((2 : Int) = 1 ∨ (2 : Int) = 2) ∧ (0 : Int) ≤ 0 ∧ (0 : Int) ≤ 4 := by decide
theorem test_witness_SetStartEdgeIgnoresBoth : Ready State.reset ∧ (2 : Int) ≠ 0 ∧ (2 : Int) ≠ 1 := by decide
theorem test_witness_SetStopEdgeWritesBothBits :
    Ready State.reset ∧ ((2 : Int) = 2 ∧ Field.stop2Edge = .stop2Edge ∧ Field.stop2Both = .stop2Both) ∧
    ((3 : Int) ≠ 1 ∧ (3 : Int) ≠ 2) ∧ ((-1 : Int) ≠ 0 ∧ (-1 : Int) ≠ 1 ∧ (-1 : Int) ≠ 2) := by decide
theorem test_witness_EdgeGettersReadTheBits :
    State.reset.idle = true ∧ ((1 : Int) = 1 ∧ Field.stop1Edge = .stop1Edge ∧ Field.stop1Both = .stop1Both) ∧
    (0 : Int) ≠ 1 ∧ (0 : Int) ≠ 2 := by decide
theorem test_witness_SetStopEdgeThenGetStopEdge :
    Ready mode1 ∧ ((2 : Int) = 1 ∨ (2 : Int) = 2) ∧ ((2 : Int) = 2 ∧ Edge.both = .both) := by decide
theorem test_witness_SetOffsetWritesThreeFields :
    Ready State.reset ∧ ((15 : Int) < 16 ∧ (16 : Int) ≤ 35) ∧ ((-36 : Int) ≤ -17 ∧ (-17 : Int) < -16) ∧
    ((-16 : Int) ≤ -16 ∧ (15 : Int) ≤ 15) ∧ (-37 : Int) < -36 ∧ (35 : Int) < 36 := by decide
theorem test_witness_GetOffsetDecodesCoreAndFlags :
    ∀ p ∈ [(0x20001F00#32, 0, 0), (0x20005000#32, 0, 1), (0x20002F00#32, 1, 0), (0x20006000#32, 1, 1)],
      Ready (holding 4 p.1 State.reset) ∧ (holding 4 p.1 State.reset).get .offsNeg20 = p.2.1 ∧
      (holding 4 p.1 State.reset).get .offsPos20 = p.2.2 := by decide
theorem test_witness_OffsetRoundTrip :
    Ready State.reset ∧ (-36 : Int) ≤ -36 ∧ (35 : Int) ≤ 35 ∧ encodeOffset (-36) = encodeOffset (-36) := by decide
theorem test_witness_SetDelrelStoresModulo64 :
    Ready State.reset ∧ ((3 : Int) = 3 ∧ Field.delrel3 = .delrel3) ∧ (4 : Int) ≠ 1 ∧ (4 : Int) ≠ 2 ∧ (4 : Int) ≠ 3 := by decide
theorem test_witness_GetDelrelReadsField :
    State.reset.idle = true ∧ (0 : Int) ≠ 1 ∧ (0 : Int) ≠ 2 ∧ (0 : Int) ≠ 3 := by decide
theorem test_witness_DelrelLaws :
    Ready (holding 3 0xFFFFFFFF#32 State.reset) ∧ (holding 3 0xFFFFFFFF#32 State.reset).cfg.wf = true ∧
    ((3 : Int) = 1 ∨ (3 : Int) = 2 ∨ (3 : Int) = 3) ∧ ((1 : Int) = 1 ∨ (1 : Int) = 2 ∨ (1 : Int) = 3) ∧ (1 : Int) ≠ 3 := by decide
theorem test_witness_CommandsSendOneByte : (answering [0xFF#8]).idle = true ∧ prompt 1 (answering [0xFF#8]) :=
  ⟨by decide, prompt_of_bytes _ _⟩
theorem test_witness_WriteRegSendsImageRegister :
    (answering [0xFF#8]).idle = true ∧ prompt 5 (answering [0xFF#8]) ∧ (-1 : Int) < 0 ∧ (6 : Int) < 7 :=
  ⟨by decide, prompt_of_bytes _ _, by decide, by decide⟩
theorem test_witness_PushConfigSendsSevenFrames : Ready (answering [0xFF#8]) ∧ prompt 35 (answering [0xFF#8]) :=
  ⟨by decide, prompt_of_bytes _ _⟩
theorem test_witness_ReadResultAssemblesAnswers :
    (answering [1#8, 2#8, 3#8, 4#8, 5#8]).idle = true ∧ prompt 5 (answering [1#8, 2#8, 3#8, 4#8, 5#8]) ∧
    (-1 : Int) < 0 ∧ (3 : Int) < 4 := ⟨by decide, prompt_of_bytes _ _, by decide, by decide⟩
theorem test_witness_ReadStatusOverwritesSnapshot :
    (answering [1#8, 2#8, 3#8]).idle = true ∧ prompt 3 (answering [1#8, 2#8, 3#8]) := ⟨by decide, prompt_of_bytes _ _⟩
theorem test_witness_Reg1HiIsReadAndCompared :
    (answering [1#8, 0x21#8]).idle = true ∧ prompt 2 (answering [1#8, 0x21#8]) := ⟨by decide, prompt_of_bytes _ _⟩
theorem test_witness_WireOpcodesSendOneFrame : (answering [1#8, 2#8]).idle = true ∧ prompt 5 (answering [1#8, 2#8]) :=
  ⟨by decide, prompt_of_bytes _ _⟩
theorem test_witness_SnapshotShowsImage : mode1.idle = true := by decide
theorem test_witness_WhoWritesWhichState :
    ∀ i ∈ [Instr.getPrediv, .setSingle, .setPrediv 4, .readStatus, .wReadStat],
      (after (exec i (answering [1#8, 2#8, 3#8]))).isSome := by decide
theorem test_witness_LocalOperationsAreSilentOnTheWire :
    ∀ i ∈ [Instr.setOffset 35, .getOffset, .snapshot, .statusTimeout, .convert 1],
      usesBus i = false ∧ (after (exec i State.reset)).isSome := by decide

/-- A reset state whose transport answers k transfers and then never again. -/
def silentAfter (k : Nat) : State := { State.reset with bus := List.replicate k (.byte 0x55#8) ++ [.never] }

theorem prompt_silentAfter (k : Nat) : prompt k (silentAfter k) := by
  intro j hj
  refine .inr ⟨0x55#8, ?_⟩
  rw [silentAfter, List.getElem?_append_left (by simpa using hj)]
  simp [hj]

theorem test_witness_StalledTransferKeepsItsPlace :
    (∀ k ∈ [0, 4], (silentAfter k).idle = true ∧ [0#8, 0#8, 0#8, 0#8].length ≤ 4 ∧ k ≤ [0#8, 0#8, 0#8, 0#8].length ∧
      (silentAfter k).bus[k]? = some .never) ∧ prompt 4 (silentAfter 4) := ⟨by decide, prompt_silentAfter 4⟩
theorem test_witness_DelaysDoNotChangeTheOutcome :
    (after (exec .readReg1Hi (withoutDelays { State.reset with bus := [.byte 1#8, .notYet, .notYet, .byte 2#8] }))).map
      (fun t => t.job) = some none := by decide
theorem test_witness_StatusExtractorsReadBits : (withStat 0xFFFF#16).idle = true := by decide
theorem test_witness_ConvertMultipliesSignedRaw : State.reset.idle = true := by decide
theorem test_witness_ConvertIsLinearOddBounded :
    Ready single ∧ ConvCoherent single ∧ ((0 : Int) < 1 ∧ (0 : Int) < 2 ^ 31 - 1 ∧ (2 : Int) ^ 31 - 1 < 2 ^ 31) :=
  ⟨by decide, rfl, by decide⟩
theorem test_witness_DecodeAndEncodeAgree :
    Request.canonical (.op 0x13#8 (-25) 0) = true ∧ Request.canonical (.frame 0xB5#8) = true := by decide
theorem test_witness_StepRunsTheDecodedInstruction :
    (asked (.op 0x01#8 0 0)).job = none ∧ (asked (.op 0x01#8 0 0)).host = .issue (.op 0x01#8 0 0) :: [] ∧
    (decode (.op 0x01#8 0 0)).toOption = some .setSingle := by decide
theorem test_witness_UnknownSelectorsDoNothing :
    (asked (.op 0x25#8 1 2)).job = none ∧ (0x00#8 = 0#8 ∧ 0x24#8 < 0x25#8) ∧
    (asked (.op 0x25#8 1 2)).host = [.issue (.op 0x25#8 1 2)] ∧
    (asked (.op 0x00#8 1 2)).host = [.issue (.op 0x00#8 1 2)] ∧
    frameLength 0x87#8 = none ∧ (asked (.frame 0x87#8)).host = [.issue (.frame 0x87#8)] := by decide
theorem test_witness_NothingHappensBetweenOperations : mode1.job = none ∧ mode1.host = [] := by decide
theorem test_witness_NoOperationStartsInsideAnother : stalled.idle = false := by decide

/-- What the invariant says of a state in which an operation is in progress. -/
theorem inv_stalled : Inv stalled where
  params := by decide
  canonical := by decide
  resolution := ⟨by decide, by decide⟩
  resetLegal := ⟨by decide, by decide⟩
  factor := rfl
  held := ⟨by decide, by decide, _, _, rfl, by decide, by decide⟩
  frames := by decide

theorem inv_asked (r : Request) : Inv (asked r) where
  params := (by decide : Params.default.ok = true)
  canonical := rfl
  resolution := (⟨by decide, by decide⟩ : ResolutionLegal State.reset)
  resetLegal := (⟨by decide, by decide⟩ : ResolutionLegal (State.resetWith Params.default State.reset.stat))
  factor := id (α := State.reset.conv = convOf (predivValue (State.reset.get .prediv))) rfl
  held := ⟨rfl, rfl⟩
  frames := rfl

theorem test_witness_NoOperationRaises : Inv stalled ∧ Inv (asked (.frame 0x87#8)) := ⟨inv_stalled, inv_asked _⟩
theorem test_witness_RejectionIsAllOrNothing :
    State.reset.idle = true ∧ Instr.wf (.getHits 3) = false ∧ Instr.wf (.setOffset 36) = false := by decide
theorem test_witness_ResetEventRestoresDefaults :
    ({ mode1 with host := [.reset] } : State).job = none ∧ ({ mode1 with host := [.reset] } : State).host = .reset :: [] := by
  decide
theorem test_witness_EveryStepKeepsTheInvariant :
    (Inv stalled ∧ (after (step stalled)).isSome) ∧
    (Inv (asked (.op 0x1A#8 0 0)) ∧ (after (step (asked (.op 0x1A#8 0 0)))).isSome) :=
  ⟨⟨inv_stalled, by decide⟩, inv_asked _, by decide⟩
theorem test_witness_EveryStepKeepsStoredCodes :
    (asked (.op 0x13#8 35 0)).par.ok = true ∧ StoredCodes (State.resetWith Params.default 0) ∧
    StoredCodes (asked (.op 0x13#8 35 0)) ∧ (after (step (asked (.op 0x13#8 35 0)))).isSome :=
  ⟨by decide, by unfold StoredCodes; decide, by unfold StoredCodes; decide, by decide⟩

end Sys2Proof.Tests
end

