-- ==== Sys2Proof/Proofs/FieldEngine.lean ====
section
/-! The field engine settled against the register's 32-bit value: `FieldGet` is the slice (40_field_engine.md R112), `FieldSet`
the masked update (R113). Both go bit by bit, through `testBit_fieldGet` and `getLsbD_reg_fieldSet`. -/

namespace Sys2Proof.Machine

/-! ### What the descriptor's predicates say -/

theorem ok_iff (d : Desc) : d.ok = true ↔ 1 ≤ d.width ∧ d.lsb + d.width ≤ 32 := by
  simp [Desc.ok]

theorem covers_iff (d : Desc) (r : Reg) (i : Nat) :
    d.covers r i = true ↔ d.reg = r ∧ d.lsb ≤ i ∧ i < d.lsb + d.width := by
  simp [Desc.covers, and_assoc]

theorem inWindow_iff (d : Desc) (a : Nat) :
    inWindow d a = true ↔ windowAddr d ≤ a ∧ a < windowAddr d + windowBytes d := by
  simp [inWindow]

/-! ### FieldGet -/

/-- `MemRead` depends on the n bytes it reads only (20_memory.md R51). -/
theorem memRead_congr {c c' : Cfg} {addr n : Nat} (h : ∀ a, addr ≤ a → a < addr + n → c'.byte a = c.byte a) :
    memRead c' addr n = memRead c addr n := by
  induction n generalizing addr with
  | zero => rfl
  | succ n ih =>
    rw [memRead, memRead, h addr (by omega) (by omega), ih fun a h1 h2 => h a (by omega) (by omega)]

/-- `FieldGet` reads the bytes of its window only (40_field_engine.md R112). -/
theorem fieldGet_congr {c c' : Cfg} {d : Desc} (h : ∀ a, inWindow d a = true → c'.byte a = c.byte a) :
    fieldGet c' d = fieldGet c d := by
  rw [fieldGet, fieldGet, memRead_congr fun a h1 h2 => h a ((inWindow_iff d a).2 ⟨h1, h2⟩)]

/-- `v = CFG[reg][lsb+width-1 : lsb]` (R112). -/
theorem fieldGet_eq_slice (c : Cfg) (d : Desc) (hd : d.ok = true) :
    fieldGet c d = slice (c.reg d.reg).toNat (d.lsb + d.width - 1) d.lsb := by
  obtain ⟨hw, -⟩ := (ok_iff d).1 hd
  have hlen : d.lsb + d.width - 1 - d.lsb + 1 = d.width := by omega
  apply Nat.eq_of_testBit_eq
  intro j
  rw [testBit_fieldGet c d hd, slice, hlen, Nat.testBit_mod_two_pow, Nat.testBit_shiftRight, BitVec.getLsbD]

/-- The descriptor of a whole register reads the whole register (R112, corner case). -/
theorem fieldGet_whole (c : Cfg) (r : Reg) : fieldGet c ⟨r, 0, 32⟩ = (c.reg r).toNat := by
  rw [fieldGet_eq_slice c ⟨r, 0, 32⟩ rfl]
  exact Nat.mod_eq_of_lt (c.reg r).isLt

/-- Settles O2: the slice bit by bit, the window by congruence of `MemRead`. -/
theorem fieldGetReadsRegisterSlice : Obligations.FieldGetReadsRegisterSlice :=
  ⟨fun c d hd => ⟨fieldGet_eq_slice c d hd, fieldGet_lt c d, fun _ h => fieldGet_congr h⟩, fieldGet_whole, by decide⟩

/-! ### FieldSet -/

/-- The masked update of a word, bit by bit: the field's bits take the value, the others stay. -/
theorem getLsbD_maskedUpdate (w : Word) (d : Desc) (hd : d.ok = true) (v : Int) (i : Nat) (hi : i < 32) :
    ((w &&& ~~~ (fieldOnes d <<< d.lsb)) ||| (fieldCode d v <<< d.lsb)).getLsbD i =
      if d.lsb ≤ i ∧ i < d.lsb + d.width then (fieldCode d v).getLsbD (i - d.lsb) else w.getLsbD i := by
  obtain ⟨hw, hl⟩ := (ok_iff d).1 hd
  rw [BitVec.getLsbD_or, BitVec.getLsbD_and, BitVec.getLsbD_not, BitVec.getLsbD_shiftLeft, BitVec.getLsbD_shiftLeft,
    getLsbD_fieldOnes d (i - d.lsb) (by omega)]
  by_cases below : i < d.lsb
  · simp [below, hi, not_le.2 below]
  · by_cases inside : i < d.lsb + d.width
    · have hj : i - d.lsb < d.width := by omega
      simp [below, inside, hi, hj, not_lt.1 below]
    · have hj : ¬ i - d.lsb < d.width := by omega
      simp [hi, inside, hj, getLsbD_fieldCode_ge d v (by omega) (not_lt.1 hj)]

/-- The field's register after the write (R113). -/
theorem reg_fieldSet_self (c : Cfg) (d : Desc) (hd : d.ok = true) (v : Int) :
    (fieldSet c d v).reg d.reg = (c.reg d.reg &&& ~~~ (fieldOnes d <<< d.lsb)) ||| (fieldCode d v <<< d.lsb) := by
  apply BitVec.eq_of_getLsbD_eq
  intro i hi
  rw [getLsbD_reg_fieldSet c d hd v d.reg i hi, getLsbD_maskedUpdate _ d hd v i hi]
  simp [covers_iff]

/-- A bit outside the field keeps its value (R113). -/
theorem getLsbD_reg_fieldSet_outside (c : Cfg) (d : Desc) (hd : d.ok = true) (v : Int) {r : Reg} {i : Nat} (hi : i < 32)
    (h : d.covers r i = false) : ((fieldSet c d v).reg r).getLsbD i = (c.reg r).getLsbD i := by
  rw [getLsbD_reg_fieldSet c d hd v r i hi, h, if_neg Bool.false_ne_true]

theorem reg_fieldSet_ne (c : Cfg) (d : Desc) (hd : d.ok = true) (v : Int) {r : Reg} (h : r ≠ d.reg) :
    (fieldSet c d v).reg r = c.reg r := by
  apply BitVec.eq_of_getLsbD_eq
  intro i hi
  exact getLsbD_reg_fieldSet_outside c d hd v hi (Bool.eq_false_iff.2 fun hc => h ((covers_iff d r i).1 hc).1.symm)

/-- The value a field already holds is stored as it is: it fits the width. -/
theorem toNat_fieldCode_fieldGet (c : Cfg) (d : Desc) (hd : d.ok = true) :
    (fieldCode d (fieldGet c d)).toNat = fieldGet c d := by
  obtain ⟨-, hl⟩ := (ok_iff d).1 hd
  rw [toNat_fieldCode d _ (by omega)]
  exact_mod_cast Nat.mod_eq_of_lt (fieldGet_lt c d)

/-- Writing the value the field already holds leaves the image unchanged (R113, corner case). -/
theorem fieldSet_fieldGet {c : Cfg} (hc : c.wf = true) (d : Desc) (hd : d.ok = true) :
    fieldSet c d (fieldGet c d) = c := by
  refine Cfg.ext_of_bits (wf_fieldSet hc d _) hc fun r i hi => ?_
  by_cases hcov : d.covers r i = true
  · obtain ⟨rfl, hlo, hhi⟩ := (covers_iff d r i).1 hcov
    have hj : i - d.lsb < d.width := by omega
    rw [getLsbD_reg_fieldSet c d hd _ d.reg i hi, if_pos hcov, BitVec.getLsbD, toNat_fieldCode_fieldGet c d hd,
      testBit_fieldGet c d hd, Nat.add_sub_cancel' hlo]
    simp [hj]
  · exact getLsbD_reg_fieldSet_outside c d hd _ hi (Bool.eq_false_iff.2 hcov)

/-- Settles O3: the register's bits one by one, the bytes by the frame of `MemWrite`, the write-back by the canonical
form. -/
theorem fieldSetIsMaskedUpdate : Obligations.FieldSetIsMaskedUpdate := by
  refine ⟨fun c d v hd => ⟨reg_fieldSet_self c d hd v, fun _ => reg_fieldSet_ne c d hd v, fun a ha => ?_,
    fun _ _ => getLsbD_reg_fieldSet_outside c d hd v, fun hc => fieldSet_fieldGet hc d hd⟩, by decide⟩
  exact byte_fieldSet_outside c d v a fun hin => Bool.eq_false_iff.1 ha ((inWindow_iff d a).2 hin)

end Sys2Proof.Machine
end

section
/-! The resolution setters settled: what each answers in an idle state, then its effect as two named fields written
(41_resolution_and_mode.md R130 to R132). Quad and double are distinct fields, so the order in which they are written does
not matter. -/

namespace Sys2Proof.Machine

variable {s : State}

/-! ### What the resolution setters answer in an idle state -/

theorem exec_setSingle_of_idle (hi : s.idle = true) :
    exec .setSingle s = .next (((s.put .double 0).put .quad 0).ret none) := perform_of_idle hi

theorem exec_setDouble_of_idle (hi : s.idle = true) :
    exec .setDouble s = .next (((s.put .double 1).put .quad 0).ret none) := perform_of_idle hi

/-- SET_QUAD under the guard of R132. -/
theorem exec_setQuad_of_idle (hi : s.idle = true) :
    exec .setQuad s = .next ((if s.get .mm = 1 then (s.put .quad 1).put .double 0 else s).ret none) := perform_of_idle hi

theorem exec_setQuad_of_mode2 (hi : s.idle = true) (hm : s.get .mm = 1) :
    exec .setQuad s = .next (((s.put .quad 1).put .double 0).ret none) := by
  rw [exec_setQuad_of_idle hi, if_pos hm]

theorem exec_setQuad_of_mode1 (hi : s.idle = true) (hm : s.get .mm = 0) : exec .setQuad s = .next (s.ret none) := by
  have not_mode2 : s.get .mm ≠ 1 := by omega
  rw [exec_setQuad_of_idle hi, if_neg not_mode2]

/-! ### The obligations -/

/-- Settles O5: each of the two writes double, then quad, without looking at the measurement mode. -/
theorem setSingleAndSetDouble : Obligations.SetSingleAndSetDouble := by
  intro s hi hp
  have double_ne_quad : Field.double ≠ Field.quad := by decide
  constructor
  · exact ⟨_, exec_setSingle_of_idle hi, setterEffect_two hp double_ne_quad 0 0 rfl rfl⟩
  · exact ⟨_, exec_setDouble_of_idle hi, setterEffect_two hp double_ne_quad 1 0 rfl rfl⟩

/-- Settles O6: the two values of F_MM are the two branches of the guard; in mode 1 only the result port is written. -/
theorem setQuadOnlyInMode2 : Obligations.SetQuadOnlyInMode2 := by
  intro s hi hp
  have quad_ne_double : Field.quad ≠ Field.double := by decide
  constructor
  · intro mode2
    exact ⟨_, exec_setQuad_of_mode2 hi mode2, setterEffect_two hp quad_ne_double 1 0 rfl rfl⟩
  · intro mode1
    exact exec_setQuad_of_mode1 hi mode1

end Sys2Proof.Machine
end

section
/-! The clock pre-divider settled (42_clock_predivider.md R150, R151). The code map turns on one fact: under admitted parameters
every code the setter stores decodes to the divider it stands for, whichever of 2 and 3 `PREDIV_CODE_4` is (R152). -/

namespace Sys2Proof.Machine

/-! ### The code map -/

/-- The setter's code for 4 is one of the two that decode to 4 (R152). -/
theorem predivCode4_of_ok {p : Params} (h : p.ok = true) : p.predivCode4 = 2 ∨ p.predivCode4 = 3 := by
  simp only [Params.ok, Params.codeOk, Bool.and_eq_true, Bool.or_eq_true, beq_iff_eq] at h
  exact h.1.2

theorem predivCode_eq_some_iff {p : Params} {n : Int} {code : Nat} :
    predivCode p n = some code ↔
      (n = 1 ∧ code = 0) ∨ (n = 2 ∧ code = 1) ∨ (n = 4 ∧ code = p.predivCode4) := by
  unfold predivCode
  split_ifs <;> simp <;> omega

theorem predivCode_eq_none_iff {p : Params} {n : Int} : predivCode p n = none ↔ n ≠ 1 ∧ n ≠ 2 ∧ n ≠ 4 := by
  unfold predivCode
  split_ifs <;> simp_all

/-- Every code the setter stores fits the two bits of the field. -/
theorem predivCode_lt {p : Params} (hp : p.ok = true) {n : Int} {code : Nat} (h : predivCode p n = some code) :
    code < 4 := by
  have code4 := predivCode4_of_ok hp
  rcases predivCode_eq_some_iff.1 h with ⟨-, hc⟩ | ⟨-, hc⟩ | ⟨-, hc⟩ <;> omega

/-- Decoding the code of a divider gives the divider back. -/
theorem predivValue_of_predivCode {p : Params} (hp : p.ok = true) {n : Int} {code : Nat}
    (h : predivCode p n = some code) : (predivValue code : Int) = n := by
  rcases predivCode_eq_some_iff.1 h with ⟨rfl, rfl⟩ | ⟨rfl, rfl⟩ | ⟨rfl, rfl⟩
  · rfl
  · rfl
  · rcases predivCode4_of_ok hp with code4 | code4 <;> rw [code4] <;> rfl

theorem predivValue_cases (c : Nat) : predivValue c = 1 ∨ predivValue c = 2 ∨ predivValue c = 4 := by
  match c with
  | 0 => exact .inl rfl
  | 1 => exact .inr (.inl rfl)
  | _ + 2 => exact .inr (.inr rfl)

theorem convOf_eq_div (n : Int) : convOf n = (n : Rat) / 2 ^ 18 := by
  rw [convOf, Rat.mkRat_eq_div]
  norm_num

variable {s : State} {n : Int} {code : Nat}

/-! ### What the two operations answer in an idle state -/

theorem exec_setPrediv : exec (.setPrediv n) s = execSetPrediv n s := rfl

theorem exec_setPrediv_of_some (hi : s.idle = true) (h : predivCode s.par n = some code) :
    exec (.setPrediv n) s = .next (((s.put .prediv code).setConv (convOf n)).ret none) := by
  rw [exec_setPrediv, execSetPrediv, perform_of_idle hi, h]

theorem exec_setPrediv_of_none (hi : s.idle = true) (h : predivCode s.par n = none) :
    exec (.setPrediv n) s = .next (s.ret none) := by
  rw [exec_setPrediv, execSetPrediv, perform_of_idle hi, h]

theorem exec_getPrediv_of_idle (hi : s.idle = true) :
    exec .getPrediv s = .next (s.ret (some (.num (predivValue (s.get .prediv))))) := perform_of_idle hi

/-- The pre-divider field takes a stored code as it is. -/
theorem fieldsWritten_prediv (hp : s.par.ok = true) (h : predivCode s.par n = some code) :
    FieldsWritten [(.prediv, code)] s (s.put .prediv code) := by
  have fits : code < 4 := predivCode_lt hp h
  refine fieldsWritten_put hp .prediv code ?_
  change code = ((code : Int) % 4).toNat
  omega

/-! ### The obligations -/

/-- Settles O11: an accepted divider is one the code map is defined for; `CONV` and the result port are written beside the
image. -/
theorem setPredivStoresCodeAndFactor : Obligations.SetPredivStoresCodeAndFactor := by
  intro s n hi hp
  constructor
  · intro code hcode
    have accepted : predivCode s.par n = some code := predivCode_eq_some_iff.2 hcode
    refine ⟨_, exec_setPrediv_of_some hi accepted, fieldsWritten_prediv hp accepted, ?_⟩
    rw [← convOf_eq_div]
    rfl
  · intro h1 h2 h4
    exact exec_setPrediv_of_none hi (predivCode_eq_none_iff.2 ⟨h1, h2, h4⟩)

/-- Settles O12: the getter decodes what the field holds, and the setter has put there a code that decodes to n. -/
theorem getPredivDecodesRawCode : Obligations.GetPredivDecodesRawCode := by
  intro s hi hp
  constructor
  · refine ⟨_, exec_getPrediv_of_idle hi, fun h => ?_, fun h => ?_, fun h => ?_, ?_⟩
    · rw [h]; rfl
    · rw [h]; rfl
    · rcases h with h | h <;> rw [h] <;> rfl
    · exact_mod_cast predivValue_cases (s.get .prediv)
  · intro n
    cases hcode : predivCode s.par n with
    | none =>
      obtain ⟨h1, h2, h4⟩ := predivCode_eq_none_iff.1 hcode
      refine ⟨_, exec_setPrediv_of_none hi hcode, fun h => ?_, fun _ _ _ => ⟨rfl, rfl⟩⟩
      omega
    | some code =>
      refine ⟨_, exec_setPrediv_of_some hi hcode, fun _ => ?_, fun h1 h2 h4 => ?_⟩
      · have stored : (s.put .prediv code).get .prediv = code :=
          (fieldsWritten_prediv hp hcode).1 (.prediv, code) (List.mem_singleton_self _)
        rw [exec_getPrediv_of_idle (by exact hi), get_ret, get_setConv, stored, predivValue_of_predivCode hp hcode]
        rfl
      · simp [predivCode_eq_none_iff.2 ⟨h1, h2, h4⟩] at hcode

end Sys2Proof.Machine
end

section
/-! The signed offset settled (45_signed_offset.md R205). Every offset of the domain is a number of the core's range, -16 to 15,
that one extension flag, or none, moves by 20; the round trip is then that of 5-bit two's complement, and the fields hold the
code as it is because each part of it fits its width. -/

namespace Sys2Proof.Machine

/-! ### Two's complement -/

theorem twos_lt (w : Nat) (x : Int) : twos w x < 2 ^ w :=
  (Int.toNat_lt (Int.emod_nonneg x (by positivity))).2 (by exact_mod_cast Int.emod_lt_of_pos x (by positivity))

/-- A number of the signed range is its pattern read back (00_scope.md R11). -/
theorem signed_twos {w : Nat} {x : Int} (hw : 1 ≤ w) (hlo : -2 ^ (w - 1) ≤ x) (hhi : x < 2 ^ (w - 1)) :
    signed w (twos w x) = x := by
  have doubled : (2 : Int) ^ w = 2 * 2 ^ (w - 1) := by rw [← pow_succ', Nat.sub_add_cancel hw]
  have half : ((2 ^ (w - 1) : Nat) : Int) = 2 ^ (w - 1) := by push_cast; rfl
  unfold signed twos
  rcases le_or_gt 0 x with nonneg | neg
  · have pattern : x % 2 ^ w = x := Int.emod_eq_of_lt nonneg (by omega)
    rw [pattern, if_pos (by omega), Int.toNat_of_nonneg nonneg]
  · have pattern : x % 2 ^ w = x + 2 ^ w := by
      rw [← Int.add_emod_right, Int.emod_eq_of_lt (by omega) (by omega)]
    rw [pattern, if_neg (by omega), Int.toNat_of_nonneg (by omega), Int.add_sub_cancel]

/-! ### The codec -/

theorem decodeOffset_noFlag (core : Nat) : decodeOffset core 0 0 = some (signed 5 core) := rfl
theorem decodeOffset_neg20 (core : Nat) : decodeOffset core 1 0 = some (signed 5 core - 20) := rfl
theorem decodeOffset_pos20 (core : Nat) : decodeOffset core 0 1 = some (signed 5 core + 20) := rfl

/-- What the encoder answers: the pattern of a number y of the core's range, with the flag that moves y to x (R201). -/
theorem encodeOffset_cases {x : Int} (hlo : -36 ≤ x) (hhi : x ≤ 35) :
    ∃ y : Int, -16 ≤ y ∧ y < 16 ∧
      ((x = y ∧ encodeOffset x = ⟨twos 5 y, 0, 0⟩) ∨
       (x = y - 20 ∧ encodeOffset x = ⟨twos 5 y, 1, 0⟩) ∨
       (x = y + 20 ∧ encodeOffset x = ⟨twos 5 y, 0, 1⟩)) := by
  unfold encodeOffset
  split_ifs with above below
  · exact ⟨x - 20, by omega, by omega, .inr (.inr ⟨by omega, rfl⟩)⟩
  · exact ⟨x + 20, by omega, by omega, .inr (.inl ⟨by omega, rfl⟩)⟩
  · exact ⟨x, by omega, by omega, .inl ⟨rfl, rfl⟩⟩

variable {x : Int}

theorem decodeOffset_encodeOffset (hlo : -36 ≤ x) (hhi : x ≤ 35) :
    decodeOffset (encodeOffset x).core (encodeOffset x).neg20 (encodeOffset x).pos20 = some x := by
  obtain ⟨y, ylo, yhi, code⟩ := encodeOffset_cases hlo hhi
  have core : signed 5 (twos 5 y) = y := signed_twos (by decide) ylo yhi
  rcases code with ⟨rfl, code⟩ | ⟨rfl, code⟩ | ⟨rfl, code⟩ <;> rw [code]
  · rw [decodeOffset_noFlag, core]
  · rw [decodeOffset_neg20, core]
  · rw [decodeOffset_pos20, core]

/-- The encoder never sets both flags; decoding would otherwise have no answer (R202). -/
theorem encodeOffset_flags (hlo : -36 ≤ x) (hhi : x ≤ 35) :
    ¬ ((encodeOffset x).neg20 = 1 ∧ (encodeOffset x).pos20 = 1) := by
  rintro ⟨neg, pos⟩
  have answered := decodeOffset_encodeOffset hlo hhi
  rw [neg, pos] at answered
  simp [decodeOffset] at answered

theorem encodeOffset_injOn {y : Int} (hx : -36 ≤ x) (hx' : x ≤ 35) (hy : -36 ≤ y) (hy' : y ≤ 35)
    (h : encodeOffset x = encodeOffset y) : x = y := by
  have decoded := decodeOffset_encodeOffset hx hx'
  rw [h, decodeOffset_encodeOffset hy hy'] at decoded
  exact (Option.some.inj decoded).symm

/-- Each part of a code fits its field: 5 bits for the core, one for a flag. -/
theorem encodeOffset_fits (x : Int) :
    (encodeOffset x).core < 32 ∧ (encodeOffset x).neg20 < 2 ∧ (encodeOffset x).pos20 < 2 := by
  unfold encodeOffset
  split_ifs
  · exact ⟨twos_lt 5 _, Nat.zero_lt_two, Nat.one_lt_two⟩
  · exact ⟨twos_lt 5 _, Nat.one_lt_two, Nat.zero_lt_two⟩
  · exact ⟨twos_lt 5 _, Nat.zero_lt_two, Nat.zero_lt_two⟩

/-! ### The three fields -/

variable {s : State}

theorem exec_setOffset_of_idle (hi : s.idle = true) (hlo : -36 ≤ x) (hhi : x ≤ 35) :
    exec (.setOffset x) s = .next ((putOffset s (encodeOffset x)).ret none) := by
  change execSetOffset x s = _
  rw [execSetOffset, perform_of_idle hi, if_pos ⟨hlo, hhi⟩]

theorem exec_getOffset_of_decoded (hi : s.idle = true)
    (h : decodeOffset (s.get .offs) (s.get .offsNeg20) (s.get .offsPos20) = some x) :
    exec .getOffset s = .next (s.ret (some (.num x))) := by
  change execGetOffset s = _
  rw [execGetOffset, perform_of_idle hi, h]

/-- A code that fits is stored as it is. -/
theorem setterEffect_putOffset (hp : s.par.ok = true) {c : OffsetCode} (hcore : c.core < 32) (hneg : c.neg20 < 2)
    (hpos : c.pos20 < 2) :
    SetterEffect [(.offs, c.core), (.offsNeg20, c.neg20), (.offsPos20, c.pos20)] s ((putOffset s c).ret none) := by
  refine setterEffect_three hp (by decide) (by decide) (by decide) _ _ _ ?_ ?_ ?_
  · change c.core = ((c.core : Int) % 32).toNat; omega
  · change c.neg20 = ((c.neg20 : Int) % 2).toNat; omega
  · change c.pos20 = ((c.pos20 : Int) % 2).toNat; omega

/-- The fields read back after a code that fits is written. -/
theorem get_putOffset (hp : s.par.ok = true) {c : OffsetCode} (hcore : c.core < 32) (hneg : c.neg20 < 2)
    (hpos : c.pos20 < 2) :
    (putOffset s c).get .offs = c.core ∧ (putOffset s c).get .offsNeg20 = c.neg20 ∧
      (putOffset s c).get .offsPos20 = c.pos20 := by
  obtain ⟨⟨stored, -⟩, -⟩ := setterEffect_putOffset hp hcore hneg hpos
  simpa using stored

/-- GET_OFFSET after an accepted SET_OFFSET(x) answers x (R205). -/
theorem setOffset_then_getOffset (hi : s.idle = true) (hp : s.par.ok = true) (hlo : -36 ≤ x) (hhi : x ≤ 35) :
    ∃ t, exec (.setOffset x) s = .next t ∧ exec .getOffset t = .next (t.ret (some (.num x))) := by
  obtain ⟨hcore, hneg, hpos⟩ := encodeOffset_fits x
  obtain ⟨core, neg, pos⟩ := get_putOffset hp hcore hneg hpos
  refine ⟨_, exec_setOffset_of_idle hi hlo hhi, exec_getOffset_of_decoded (by exact hi) ?_⟩
  rw [get_ret, get_ret, get_ret, core, neg, pos, decodeOffset_encodeOffset hlo hhi]

/-! ### The obligation -/

/-- Settles O24: two's complement inside each of the three ranges; injectivity and the flags follow from the round trip. -/
theorem offsetRoundTrip : Obligations.OffsetRoundTrip := by
  refine ⟨fun x hlo hhi => ⟨?_, ?_, ?_⟩, fun _ _ => encodeOffset_injOn, fun _ _ => setOffset_then_getOffset⟩
  · exact decodeOffset_encodeOffset hlo hhi
  · exact encodeOffset_flags hlo hhi
  · exact Nat.le_of_lt_succ (encodeOffset_fits x).1

end Sys2Proof.Machine
end

section
/-! The framer's operations settled (47_transactions.md R236, R237, R242, R243). A frame sent while every transfer returns at once
collects the answers to its payload bytes, in order, and no other; what is left to each operation is the assembly of those
answers (30_encoding.md R85). -/

namespace Sys2Proof.Machine

/-! ### Big-endian assembly as bit vectors -/

/-- One more byte: the word so far moves up by eight bits and the byte takes their place. -/
theorem ofNat_be_concat (w : Nat) (bs : List Byte) (b : Byte) :
    BitVec.ofNat w (be (bs ++ [b])) = BitVec.ofNat w (be bs) <<< 8 ||| b.setWidth w := by
  have assembled : be (bs ++ [b]) = be bs <<< 8 ||| b.toNat := by
    rw [← Nat.shiftLeft_add_eq_or_of_lt b.isLt, Nat.shiftLeft_eq, be, List.foldl_append]
    rfl
  apply BitVec.eq_of_toNat_eq
  simp [assembled, Nat.shiftLeft_eq]

theorem ofNat_be_one (w : Nat) (b : Byte) : BitVec.ofNat w (be [b]) = b.setWidth w := by
  simp [be]

theorem ofNat_be_four (w : Nat) (b₁ b₂ b₃ b₄ : Byte) :
    BitVec.ofNat w (be [b₁, b₂, b₃, b₄]) =
      (b₁.setWidth w <<< 24) ||| (b₂.setWidth w <<< 16) ||| (b₃.setWidth w <<< 8) ||| b₄.setWidth w := by
  have last := ofNat_be_concat w [b₁, b₂, b₃] b₄
  have third := ofNat_be_concat w [b₁, b₂] b₃
  have second := ofNat_be_concat w [b₁] b₂
  simp only [List.cons_append, List.nil_append] at last third second
  rw [last, third, second, ofNat_be_one]
  simp only [BitVec.shiftLeft_or_distrib, ← BitVec.shiftLeft_add]

/-! ### The answers a frame collects -/

variable {s : State}

/-- Payload transfers collect every answer; `SEQ` does not wrap back to the opcode's 0. -/
theorem collectAll_payloadXfers (s : State) (j k : Nat) (ps got : List Byte) (hk : 0 < k) (hlast : k + ps.length ≤ 8) :
    collectAll s j (payloadXfers k ps) got = got ++ (List.range' j ps.length).map (answer s) := by
  induction ps generalizing j k got with
  | nil => simp [payloadXfers, collectAll]
  | cons p ps ih =>
    rw [List.length_cons] at hlast ⊢
    have payload : BitVec.ofNat 3 k ≠ 0 := by
      rw [Ne, ← BitVec.toNat_inj, BitVec.toNat_ofNat, Nat.mod_eq_of_lt (by omega)]
      exact hk.ne'
    rw [payloadXfers, collectAll, collect, if_neg payload, ih (j + 1) (k + 1) _ (by omega) (by omega), List.range'_succ]
    simp

/-- A frame drops the answer to its opcode and collects those to its payload bytes (R230). -/
theorem collectAll_frame (s : State) (op : Byte) {ps : List Byte} (h : ps.length ≤ 7) :
    collectAll s 0 (frame op ps) [] = (List.range' 1 ps.length).map (answer s) := by
  change collectAll s 1 (payloadXfers 1 ps) [] = _
  rw [collectAll_payloadXfers s 1 1 ps [] (by decide) (by omega), List.nil_append]

theorem length_payloadXfers (k : Nat) (ps : List Byte) : (payloadXfers k ps).length = ps.length := by
  induction ps generalizing k with
  | nil => rfl
  | cons p ps ih => rw [payloadXfers, List.length_cons, ih, List.length_cons]

theorem length_frame (op : Byte) (ps : List Byte) : (frame op ps).length = ps.length + 1 := by
  rw [frame, List.length_cons, length_payloadXfers]

/-- A read frame sent by an idle block: the operation ends with the answers to the dummy bytes. -/
theorem transact_readFrame_of_prompt (hi : s.idle = true) (fin : Finish) (op : Byte) {n : Nat} (hn : n ≤ 7)
    (hp : prompt (n + 1) s) :
    transact fin (readFrame s op n) s =
      finish fin ((List.range' 1 n).map (answer s)) (afterFrames s (frameBytes op (List.replicate n s.par.dummy))) := by
  have length_dummies : (List.replicate n s.par.dummy).length = n := List.length_replicate
  have all_return : prompt (readFrame s op n).length s := by rwa [readFrame, length_frame, length_dummies]
  have collected : collectAll s 0 (readFrame s op n) [] = (List.range' 1 n).map (answer s) := by
    rw [readFrame, collectAll_frame s op (by omega), length_dummies]
  rw [transact_of_prompt hi fin (readFrame s op n) (frame_releases _ _) all_return, collected]
  rfl

/-! ### READ_RESULT -/

theorem resultIndex_val (i : ResultReg) : resultIndex i.val = some i := by
  rw [resultIndex, dif_pos (by omega)]
  rfl

theorem resultIndex_eq_none {i : Int} (h : i < 0 ∨ 3 < i) : resultIndex i = none := by
  rw [resultIndex, dif_neg (by omega)]

theorem exec_readResult {i : Int} : exec (.readResult i) s = execReadResult i s := rfl

theorem exec_readResult_of_index (hi : s.idle = true) (i : ResultReg) :
    exec (.readResult i.val) s = .next (fetchResult i s) := by
  rw [exec_readResult, execReadResult, perform_of_idle hi, resultIndex_val]

theorem exec_readResult_of_outside (hi : s.idle = true) {i : Int} (h : i < 0 ∨ 3 < i) :
    exec (.readResult i) s = .next (s.ret (some (.word32 0))) := by
  rw [exec_readResult, execReadResult, perform_of_idle hi, resultIndex_eq_none h]

/-- A result read answers the four payload answers, assembled most significant first (R237). -/
theorem fetchResult_of_prompt (hi : s.idle = true) (hp : prompt 5 s) (i : ResultReg) :
    fetchResult i s =
      (afterFrames s (frameBytes (Config.opRead + BitVec.ofNat 8 i.val) (List.replicate 4 s.par.dummy))).ret
        (some (.word32 (((answer s 1).setWidth 32 <<< 24) ||| ((answer s 2).setWidth 32 <<< 16) |||
          ((answer s 3).setWidth 32 <<< 8) ||| (answer s 4).setWidth 32))) := by
  rw [fetchResult, transact_readFrame_of_prompt hi .result _ (by decide) hp, ← ofNat_be_four]
  rfl

/-- Settles O31: an index inside 0 to 3 sends one read frame, whose four answers are assembled; any other finds no register. -/
theorem readResultAssemblesAnswers : Obligations.ReadResultAssemblesAnswers := by
  intro s hi
  constructor
  · intro i hp
    rw [exec_readResult_of_index hi, fetchResult_of_prompt hi hp]
    rfl
  · intro i outside
    exact exec_readResult_of_outside hi outside

/-! ### READ_REG1_HI and TEST_COMMS -/

theorem exec_readReg1Hi_of_idle (hi : s.idle = true) : exec .readReg1Hi s = .next (fetchReg1Hi s) := perform_of_idle hi

theorem exec_testComms_of_idle (hi : s.idle = true) : exec .testComms s = .next (checkReg1Hi s) := perform_of_idle hi

/-- The one byte a register-1 read collects is the second answer. -/
theorem ofNat_be_secondAnswer (s : State) : BitVec.ofNat 8 (be ((List.range' 1 1).map (answer s))) = answer s 1 :=
  (ofNat_be_one 8 (answer s 1)).trans (BitVec.setWidth_eq _)

theorem fetchReg1Hi_of_prompt (hi : s.idle = true) (hp : prompt 2 s) :
    fetchReg1Hi s = (afterFrames s (frameBytes Config.opReg1Hi [s.par.dummy])).ret (some (.word8 (answer s 1))) := by
  rw [fetchReg1Hi, transact_readFrame_of_prompt hi .byte _ (by decide) hp, finish, ofNat_be_secondAnswer]
  rfl

/-- The comparison is with the image, which the frame has left as it was (R243). -/
theorem checkReg1Hi_of_prompt (hi : s.idle = true) (hp : prompt 2 s) :
    checkReg1Hi s = (afterFrames s (frameBytes Config.opReg1Hi [s.par.dummy])).ret
      (some (.bool (decide (answer s 1 = s.cfg.byte 4)))) := by
  rw [checkReg1Hi, transact_readFrame_of_prompt hi .compare _ (by decide) hp, finish, ofNat_be_secondAnswer]
  rfl

/-- Settles O33: both operations send the same read frame and differ in what they make of the one byte collected. -/
theorem reg1HiIsReadAndCompared : Obligations.Reg1HiIsReadAndCompared := by
  intro s hi hp
  constructor
  · rw [exec_readReg1Hi_of_idle hi, fetchReg1Hi_of_prompt hi hp]
    rfl
  · rw [exec_testComms_of_idle hi, checkReg1Hi_of_prompt hi hp]
    rfl

/-! ### PUSH_CONFIG -/

theorem mem_pushOrder {p : Params} (h : p.ok = true) (r : Reg) : r ∈ p.pushOrder := by
  simp only [Params.ok, Params.orderOk, Bool.and_eq_true, List.all_eq_true, List.contains_iff_mem] at h
  obtain ⟨-, -, named⟩ := h
  exact named r (List.mem_finRange r)

/-- Seven entries that name all seven registers name none twice. -/
theorem nodup_pushOrder {p : Params} (h : p.ok = true) : p.pushOrder.Nodup := by
  have covered : (List.finRange 7).Subperm p.pushOrder :=
    (List.nodup_finRange 7).subperm fun r _ => mem_pushOrder h r
  have same_length : p.pushOrder.length ≤ (List.finRange 7).length := by
    rw [pushOrder_length h, List.length_finRange]
  exact (covered.perm_of_length_le same_length).nodup_iff.1 (List.nodup_finRange 7)

theorem bytesOf_writeFrames (s : State) (rs : List Reg) :
    bytesOf (rs.flatMap (writeFrame s)) = rs.flatMap (writeBytes s) := List.map_flatMap

theorem writeBytes_flatMap_length (s : State) (rs : List Reg) :
    (rs.flatMap (writeBytes s)).length = 5 * rs.length := by
  rw [← bytesOf_writeFrames, List.length_map, writeFrames_length]

theorem exec_pushConfig_of_idle (hi : s.idle = true) : exec .pushConfig s = .next (sendImage s) := perform_of_idle hi

/-- The answers of a push are discarded, so nothing but the wire is left of it (R236). -/
theorem sendImage_of_prompt (hi : s.idle = true) (hok : s.par.ok = true) (hp : prompt 35 s) :
    sendImage s = afterFrames s (s.par.pushOrder.flatMap (writeBytes s)) := by
  have not_empty : s.par.pushOrder ≠ [] := List.ne_nil_of_length_eq_add_one (pushOrder_length hok)
  have transfers : (s.par.pushOrder.flatMap (writeFrame s)).length = 35 := by
    rw [writeFrames_length, pushOrder_length hok]
  rw [sendImage, transact_of_prompt hi .discard _ (writeFrames_release s not_empty) (transfers ▸ hp),
    bytesOf_writeFrames]
  rfl

/-- Settles O30: the frames one after the other are one list of transfers, five a register, and `PUSH_ORDER` is a permutation
of the seven. -/
theorem pushConfigSendsSevenFrames : Obligations.PushConfigSendsSevenFrames := by
  intro s hi hok hp
  refine ⟨?_, ?_, nodup_pushOrder hok, mem_pushOrder hok⟩
  · rw [exec_pushConfig_of_idle hi, sendImage_of_prompt hi hok hp]
  · rw [writeBytes_flatMap_length, pushOrder_length hok]

end Sys2Proof.Machine
end

section
/-! The status extractors settled (48_status_and_result_decode.md R270 to R273). Each is one slice of `STAT`, and a slice is a
quotient by a power of two, reduced mod a power of two; the timeout flag is the slice of two bits, zero when both are. -/

namespace Sys2Proof.Machine

/-! ### Slices as arithmetic -/

theorem slice_eq_div_mod (v hi lo : Nat) : slice v hi lo = v / 2 ^ lo % 2 ^ (hi - lo + 1) := by
  rw [slice, Nat.shiftRight_eq_div_pow]

/-- A slice of two bits is not zero exactly when one of the two is set. -/
theorem slice_two_bits_ne_zero (v lo : Nat) :
    (slice v (lo + 1) lo != 0) = (v.testBit lo || v.testBit (lo + 1)) := by
  have two_bits : lo + 1 - lo + 1 = 2 := by omega
  have low_bit : v.testBit lo = decide (v / 2 ^ lo % 2 = 1) := Nat.testBit_eq_decide_div_mod_eq
  have high_bit : v.testBit (lo + 1) = decide (v / 2 ^ lo / 2 % 2 = 1) := by
    rw [Nat.testBit_eq_decide_div_mod_eq, Nat.pow_succ, Nat.div_div_eq_div_mul]
  rw [slice_eq_div_mod, two_bits, low_bit, high_bit, Bool.eq_iff_iff]
  simp only [bne_iff_ne, Bool.or_eq_true, decide_eq_true_eq]
  omega

/-! ### The fields of the status word -/

theorem statPointer_eq_mod (v : Half) : statPointer v = v.toNat % 8 := by
  rw [statPointer, slice_eq_div_mod, Nat.pow_zero, Nat.div_one]
  rfl

theorem statHits1_eq_div_mod (v : Half) : statHits1 v = v.toNat / 8 % 8 := slice_eq_div_mod v.toNat 5 3

theorem statHits2_eq_div_mod (v : Half) : statHits2 v = v.toNat / 64 % 8 := slice_eq_div_mod v.toNat 8 6

theorem statTimeout_eq_or (v : Half) : statTimeout v = (v.getLsbD 9 || v.getLsbD 10) := slice_two_bits_ne_zero v.toNat 9

/-! ### What the extractors answer in an idle state -/

variable {s : State}

theorem exec_statusPointer_of_idle (hi : s.idle = true) :
    exec .statusPointer s = .next (s.ret (some (.num (statPointer s.stat)))) := perform_of_idle hi

theorem exec_statusHits1_of_idle (hi : s.idle = true) :
    exec .statusHits1 s = .next (s.ret (some (.num (statHits1 s.stat)))) := perform_of_idle hi

theorem exec_statusHits2_of_idle (hi : s.idle = true) :
    exec .statusHits2 s = .next (s.ret (some (.num (statHits2 s.stat)))) := perform_of_idle hi

theorem exec_statusTimeout_of_idle (hi : s.idle = true) :
    exec .statusTimeout s = .next (s.ret (some (.bool (statTimeout s.stat)))) := perform_of_idle hi

/-! ### The obligation -/

/-- Settles O40: each extractor writes its slice of `STAT` to the result port and nothing else, and the slice is the statement's
arithmetic. -/
theorem statusExtractorsReadBits : Obligations.StatusExtractorsReadBits := by
  intro s hi
  refine ⟨?pointer, ?hits1, ?hits2, ?timeout⟩
  case pointer =>
    rw [exec_statusPointer_of_idle hi, statPointer_eq_mod]
    rfl
  case hits1 =>
    rw [exec_statusHits1_of_idle hi, statHits1_eq_div_mod]
    rfl
  case hits2 =>
    rw [exec_statusHits2_of_idle hi, statHits2_eq_div_mod]
    rfl
  case timeout =>
    rw [exec_statusTimeout_of_idle hi, statTimeout_eq_or]
    rfl

end Sys2Proof.Machine
end

section
/-! What the instructions do, in three groups: the reads, which write the result port; the setters, which write named fields of the
image; and the operations on the bus, each of which hands a list of whole frames to `transact`. What every instruction keeps
follows from these groups (10_state.md R23, 47_transactions.md R231, R246; 92_eei_decisions.md D24). -/

namespace Sys2Proof.Machine

variable {i : Instr} {s t : State}

/-! ### Every meaning is one `perform` -/

theorem exec_of_busy (h : s.idle = false) (i : Instr) : exec i s = .refused .operationInProgress := by
  cases i <;> exact perform_of_busy h

theorem exec_of_idle (h : s.idle = true) (i : Instr) : ∃ t, exec i s = .next t := by
  cases i <;> exact ⟨_, perform_of_idle h⟩

theorem idle_of_exec_next (h : exec i s = .next t) : s.idle = true := by
  by_contra busy
  rw [exec_of_busy (Bool.eq_false_iff.2 busy) i] at h
  cases h

/-! ### The reads -/

/-- A read answers on the result port; GET_OFFSET may use up a free value (45_signed_offset.md R204). -/
theorem exec_read_cases (hb : usesBus i = false) (hs : isSetter i = false) (h : exec i s = .next t) :
    ∃ v, t = s.ret v ∨ t = s.drawn.ret v := by
  cases i
  case getOffset =>
    obtain ⟨-, rfl⟩ := perform_eq_next.1 h
    split
    · exact ⟨_, .inl rfl⟩
    · exact ⟨_, .inr rfl⟩
  case isSingle | isDouble | isQuad | getMeasMode | getPrediv | getHits | getHitOp | getStartEdge | getStopEdge | getDelrel |
      snapshot | statusPointer | statusHits1 | statusHits2 | statusTimeout | convert =>
    exact ⟨_, .inl (perform_eq_next.1 h).2⟩
  all_goals exact nomatch hb, hs

/-! ### The setters -/

/-- The named fields each setter may write (41_resolution_and_mode.md to 46_relative_delays.md). -/
def fieldsOf : Instr → List Field
  | .setSingle | .setDouble | .setQuad => [.double, .quad]
  | .setMeasMode _ => [.mm, .double, .quad]
  | .setPrediv _ => [.prediv]
  | .setHits _ _ => [.hitin1, .hitin2]
  | .setHitOp _ _ => [.hitop1, .hitop2]
  | .setStartEdge _ => [.startEdge]
  | .setStopEdge _ _ => [.stop1Edge, .stop1Both, .stop2Edge, .stop2Both]
  | .setOffset _ => [.offs, .offsNeg20, .offsPos20]
  | .setDelrel _ _ => [.delrel1, .delrel2, .delrel3]
  | _ => []

/-- The states that writing some of the given fields, one after the other, can reach. -/
inductive Puts (fs : List Field) (s : State) : State → Prop
  | refl : Puts fs s s
  | put {t : State} {f : Field} (v : Int) : Puts fs s t → f ∈ fs → Puts fs s (t.put f v)

theorem Puts.onlyCfg {fs : List Field} (h : Puts fs s t) : t = { s with cfg := t.cfg } := by
  induction h with
  | refl => rfl
  | put v _ _ ih => rw [ih]; rfl

theorem Puts.par_eq {fs : List Field} (h : Puts fs s t) : t.par = s.par := by rw [h.onlyCfg]

theorem Puts.wf {fs : List Field} (h : Puts fs s t) (hc : s.cfg.wf = true) : t.cfg.wf = true := by
  induction h with
  | refl => exact hc
  | put v _ _ ih => exact wf_put ih _ v

theorem Puts.get_of_not_mem {fs : List Field} (h : Puts fs s t) (hp : s.par.ok = true) {g : Field} (hg : g ∉ fs) :
    t.get g = s.get g := by
  induction h with
  | refl => rfl
  | @put t f v reached hf ih =>
    have hfg : f ≠ g := fun e => hg (e ▸ hf)
    rw [get_put_ne (reached.par_eq ▸ hp) hfg, ih]

theorem puts_one {fs : List Field} {f : Field} (v : Int) (hf : f ∈ fs) : Puts fs s (s.put f v) := .put v .refl hf

theorem puts_two {fs : List Field} {f g : Field} (v w : Int) (hf : f ∈ fs) (hg : g ∈ fs) :
    Puts fs s ((s.put f v).put g w) := .put w (puts_one v hf) hg

theorem puts_three {fs : List Field} {f g k : Field} (v w x : Int) (hf : f ∈ fs) (hg : g ∈ fs) (hk : k ∈ fs) :
    Puts fs s (((s.put f v).put g w).put k x) := .put x (puts_two v w hf hg) hk

theorem puts_enterMode1 (s : State) : Puts (fieldsOf (.setMeasMode 1)) s (enterMode1 s) := by
  rw [enterMode1]
  split
  · exact puts_three 0 0 1 (by decide) (by decide) (by decide)
  · exact puts_one 0 (by decide)

theorem puts_putOrNothing {fs : List Field} {f : Option Field} (v : Int) (hf : ∀ g ∈ f, g ∈ fs) :
    Puts fs s (putOrNothing s f v) := by
  cases f with
  | none => exact .refl
  | some f => exact puts_one v (hf f rfl)

theorem hitsField_mem (ch n : Int) : ∀ f ∈ hitsField ch, f ∈ fieldsOf (.setHits ch n) := by
  unfold hitsField fieldsOf
  split_ifs <;> simp

theorem hitOpField_mem (k v : Int) : ∀ f ∈ hitOpField k, f ∈ fieldsOf (.setHitOp k v) := by
  unfold hitOpField fieldsOf
  split_ifs <;> simp

theorem delrelField_mem (k v : Int) : ∀ f ∈ delrelField k, f ∈ fieldsOf (.setDelrel k v) := by
  unfold delrelField fieldsOf
  split_ifs <;> simp

theorem stopFields_mem {ch : Int} (e : Int) {bit flag : Field} (h : stopFields ch = some (bit, flag)) :
    bit ∈ fieldsOf (.setStopEdge ch e) ∧ flag ∈ fieldsOf (.setStopEdge ch e) := by
  unfold stopFields at h
  split_ifs at h <;> cases h <;> simp [fieldsOf]

/-- A setter writes its own fields only, clears the result port, and, if it is SET_PREDIV, sets the factor. -/
theorem exec_setter_cases (hs : isSetter i = true) (h : exec i s = .next t) :
    ∃ u c, Puts (fieldsOf i) s u ∧ t = (u.setConv c).ret none ∧ ((∀ n, i ≠ .setPrediv n) → c = s.conv) := by
  have imageOnly : ∀ {u : State}, Puts (fieldsOf i) s u → t = u.ret none →
      ∃ u c, Puts (fieldsOf i) s u ∧ t = (u.setConv c).ret none ∧ ((∀ n, i ≠ .setPrediv n) → c = s.conv) :=
    fun {u} reached e => ⟨u, u.conv, reached, e, fun _ => by rw [reached.onlyCfg]⟩
  cases i
  case setSingle => exact imageOnly (puts_two 0 0 (by decide) (by decide)) (perform_eq_next.1 h).2
  case setDouble => exact imageOnly (puts_two 1 0 (by decide) (by decide)) (perform_eq_next.1 h).2
  case setQuad =>
    refine imageOnly ?_ (perform_eq_next.1 h).2
    split
    · exact puts_two 1 0 (by decide) (by decide)
    · exact .refl
  case setMeasMode m =>
    refine imageOnly ?_ (perform_eq_next.1 h).2
    split_ifs
    · exact puts_enterMode1 s
    · exact puts_one 1 (by simp [fieldsOf])
    · exact .refl
  case setPrediv n =>
    obtain ⟨-, rfl⟩ := perform_eq_next.1 h
    cases predivCode s.par n with
    | none => exact ⟨s, s.conv, .refl, rfl, fun _ => rfl⟩
    | some code => exact ⟨_, convOf n, puts_one code (by simp [fieldsOf]), rfl, fun other => absurd rfl (other n)⟩
  case setHits ch n =>
    refine imageOnly ?_ (perform_eq_next.1 h).2
    split
    · exact puts_putOrNothing n (hitsField_mem ch n)
    · exact .refl
  case setHitOp k v => exact imageOnly (puts_putOrNothing v (hitOpField_mem k v)) (perform_eq_next.1 h).2
  case setStartEdge e =>
    refine imageOnly ?_ (perform_eq_next.1 h).2
    split
    · exact puts_one 0 (by simp [fieldsOf])
    · exact puts_one 1 (by simp [fieldsOf])
    · exact .refl
    · exact .refl
  case setStopEdge ch e =>
    refine imageOnly ?_ (perform_eq_next.1 h).2
    split
    · next bit flag edge hf he =>
      obtain ⟨hbit, hflag⟩ := stopFields_mem e hf
      exact puts_two _ _ hbit hflag
    · exact .refl
  case setOffset x =>
    refine imageOnly ?_ (perform_eq_next.1 h).2
    split
    · exact puts_three _ _ _ (by simp [fieldsOf]) (by simp [fieldsOf]) (by simp [fieldsOf])
    · exact .refl
  case setDelrel k v => exact imageOnly (puts_putOrNothing v (delrelField_mem k v)) (perform_eq_next.1 h).2
  all_goals cases hs

/-! ### The operations on the bus -/

/-- Transfers that are a sequence of whole frames, with the `SEQ` values of the framer (47_transactions.md R230, R245). -/
structure WellFramed (xs : List Xfer) : Prop where
  notEmpty : xs ≠ []
  startsAtOpcode : ∀ x ∈ xs.head?, x.seq = 0
  seqs : seqRuns xs = true
  whole : wholeFrames 0 (bytesOf xs) = true

theorem wellFramed_frame {op : Byte} {ps : List Byte} (h : payloadLength op = some ps.length) (h4 : ps.length ≤ 4) :
    WellFramed (frame op ps) where
  notEmpty := List.cons_ne_nil _ _
  startsAtOpcode := by simp [frame]
  seqs := seqRuns_frame op ps h4
  whole := by simpa [wholeFrames] using wholeFrames_frame h []

theorem wellFramed_writeFrames (s : State) {rs : List Reg} (h : rs ≠ []) : WellFramed (rs.flatMap (writeFrame s)) where
  notEmpty := by
    obtain ⟨ys, y, e, -⟩ := writeFrames_release s h
    simp [e]
  startsAtOpcode := by
    obtain ⟨r, rs, rfl⟩ := List.exists_cons_of_ne_nil h
    simp [writeFrame, frame]
  seqs := seqRuns_writeFrames s rs
  whole := by simpa [wholeFrames] using wholeFrames_writeFrames s rs []

/-- Instruction `i` sends the transfers `xs` and ends with `fin`; which transfers does not depend on the transport's delays. -/
structure Sends (i : Instr) (fin : Finish) (xs : State → List Xfer) : Prop where
  runs : ∀ s, exec i s = perform s (transact fin (xs s) s)
  framed : ∀ s, s.par.ok = true → WellFramed (xs s)
  delayFree : ∀ s, xs (withoutDelays s) = xs s
  statusOnly : fin = .status → i = .readStatus ∨ i = .wReadStat

theorem sends_command {op : Byte} (hop : payloadLength op = some 0) (h : ∀ s, exec i s = perform s (sendCommand op s)) :
    Sends i .discard fun _ => frame op [] where
  runs := h
  framed _ _ := wellFramed_frame hop (Nat.zero_le 4)
  delayFree _ := rfl
  statusOnly := nofun

theorem sends_register (r : Reg) (h : ∀ s, exec i s = perform s (sendRegister r s)) :
    Sends i .discard fun s => writeFrame s r where
  runs := h
  framed s _ := wellFramed_frame (ps := regPayload s r) (payloadLength_write r) (le_refl 4)
  delayFree _ := rfl
  statusOnly := nofun

theorem sends_readFrame {fin : Finish} {op : Byte} {n : Nat} (hop : payloadLength op = some n) (hn : n ≤ 4)
    (hfin : fin = .status → i = .readStatus ∨ i = .wReadStat)
    (h : ∀ s, exec i s = perform s (transact fin (readFrame s op n) s)) : Sends i fin fun s => readFrame s op n where
  runs := h
  framed s _ := wellFramed_frame (hop.trans (by rw [List.length_replicate])) (by rwa [List.length_replicate])
  delayFree _ := rfl
  statusOnly := hfin

theorem sends_result (k : ResultReg) (h : ∀ s, exec i s = perform s (fetchResult k s)) :
    Sends i .result fun s => readFrame s (Config.opRead + BitVec.ofNat 8 k.val) 4 :=
  sends_readFrame (payloadLength_read k) (le_refl 4) nofun h

theorem sends_pushConfig : Sends .pushConfig .discard fun s => s.par.pushOrder.flatMap (writeFrame s) where
  runs _ := rfl
  framed s hp := wellFramed_writeFrames s (List.ne_nil_of_length_eq_add_one (pushOrder_length hp))
  delayFree _ := rfl
  statusOnly := nofun

/-- An operation on the bus sends whole frames, unless its operand names no register: then it answers its sentinel. -/
theorem exec_bus_cases (hb : usesBus i = true) :
    (∃ v, ∀ s, exec i s = perform s (s.ret v)) ∨ ∃ fin xs, Sends i fin xs := by
  cases i
  case wReset | wInit | cmdReset | cmdInit => exact .inr ⟨_, _, sends_command rfl fun _ => rfl⟩
  case wWrite0 => exact .inr ⟨_, _, sends_register 0 fun _ => rfl⟩
  case wWrite1 => exact .inr ⟨_, _, sends_register 1 fun _ => rfl⟩
  case wWrite2 => exact .inr ⟨_, _, sends_register 2 fun _ => rfl⟩
  case wWrite3 => exact .inr ⟨_, _, sends_register 3 fun _ => rfl⟩
  case wWrite4 => exact .inr ⟨_, _, sends_register 4 fun _ => rfl⟩
  case wWrite5 => exact .inr ⟨_, _, sends_register 5 fun _ => rfl⟩
  case wWrite6 => exact .inr ⟨_, _, sends_register 6 fun _ => rfl⟩
  case writeReg r =>
    cases hr : regIndex r with
    | some k => exact .inr ⟨_, _, sends_register k fun s => by rw [exec, execWriteReg, hr]⟩
    | none => exact .inl ⟨none, fun s => by rw [exec, execWriteReg, hr]⟩
  case wReadRes0 => exact .inr ⟨_, _, sends_result 0 fun _ => rfl⟩
  case wReadRes1 => exact .inr ⟨_, _, sends_result 1 fun _ => rfl⟩
  case wReadRes2 => exact .inr ⟨_, _, sends_result 2 fun _ => rfl⟩
  case wReadRes3 => exact .inr ⟨_, _, sends_result 3 fun _ => rfl⟩
  case readResult k =>
    cases hk : resultIndex k with
    | some k' => exact .inr ⟨_, _, sends_result k' fun s => by rw [exec, execReadResult, hk]⟩
    | none => exact .inl ⟨some (.word32 0), fun s => by rw [exec, execReadResult, hk]⟩
  case wReadStat => exact .inr ⟨.status, _, sends_readFrame rfl (by decide) (fun _ => .inr rfl) fun _ => rfl⟩
  case readStatus => exact .inr ⟨.status, _, sends_readFrame rfl (by decide) (fun _ => .inl rfl) fun _ => rfl⟩
  case wReadReg1Hi | readReg1Hi => exact .inr ⟨.byte, _, sends_readFrame rfl (by decide) nofun fun _ => rfl⟩
  case testComms => exact .inr ⟨.compare, _, sends_readFrame rfl (by decide) nofun fun _ => rfl⟩
  case pushConfig => exact .inr ⟨_, _, sends_pushConfig⟩
  all_goals cases hb

/-- What an operation on the bus that answers has done. -/
theorem exec_bus_next (hb : usesBus i = true) (h : exec i s = .next t) :
    (∃ v, t = s.ret v) ∨ ∃ fin xs, Sends i fin xs ∧ t = transact fin (xs s) s := by
  rcases exec_bus_cases hb with ⟨v, rejected⟩ | ⟨fin, xs, sends⟩
  · exact .inl ⟨v, (perform_eq_next.1 (rejected s ▸ h)).2⟩
  · exact .inr ⟨fin, xs, sends, (perform_eq_next.1 (sends.runs s ▸ h)).2⟩

end Sys2Proof.Machine
end

section
/-! The codec settled (30_encoding.md R87 to R90). The decoder and the encoder go through the same table: decoding the encoding of an
instruction gives it back, and a byte that decodes can only be the one the encoder writes, so a canonical request is determined
by what it decodes to. -/

namespace Sys2Proof.Machine

theorem decode_encode (i : Instr) : decode (encode i) = .ok i := by cases i <;> rfl

theorem byte_eq_ofNat {b : Byte} {n : Nat} (h : b.toNat = n) : b = BitVec.ofNat 8 n := by
  rw [← h, BitVec.ofNat_toNat, BitVec.setWidth_eq]

/-! ### The wire opcodes -/

/-- A byte that decodes as a wire opcode is the one the encoder writes. -/
theorem encode_of_decodeOpcode {op : Byte} {i : Instr} (h : decodeOpcode op = .ok i) : encode i = .frame op := by
  unfold decodeOpcode at h
  split at h
  case h_16 => cases h
  all_goals
    next byte =>
      cases h
      exact congrArg Request.frame (byte_eq_ofNat byte).symm

/-- A byte is one of the 15 opcodes, with its instruction and its payload length, or it is refused by name. -/
theorem decodeOpcode_cases (op : Byte) :
    (∃ i n, decodeOpcode op = .ok i ∧ payloadLength op = some n ∧ (n = 0 ∨ n = 1 ∨ n = 2 ∨ n = 4)) ∨
    (decodeOpcode op = .error (.unknownOpcode op) ∧ payloadLength op = none) := by
  unfold decodeOpcode payloadLength
  split
  case h_16 =>
    refine .inr ⟨rfl, ?_⟩
    split
    case h_16 => rfl
    all_goals contradiction
  all_goals
    next byte =>
      rw [byte]
      exact .inl ⟨_, _, rfl, rfl, by decide⟩

/-! ### The operation selectors -/

/-- A selector of the table selects an operation; any other is refused by name (R90). -/
theorem decodeOpsel_cases (sel : Byte) (a b : Int) :
    (∃ i, decodeOpsel sel a b = .ok i ∧ 1 ≤ sel.toNat ∧ sel.toNat ≤ 36) ∨
    (decodeOpsel sel a b = .error (.unknownOpsel sel) ∧ (sel.toNat = 0 ∨ 36 < sel.toNat)) := by
  unfold decodeOpsel
  split
  case h_37 =>
    refine .inr ⟨rfl, ?_⟩
    simp only [imp_false] at *
    omega
  all_goals exact .inl ⟨_, rfl, by omega, by omega⟩

/-- The encoder writes the selector that was decoded, the operands in the ports that are used, and 0 in the others. -/
theorem encode_of_decodeOpsel {sel : Byte} {a b : Int} {i : Instr} (h : decodeOpsel sel a b = .ok i) :
    encode i = .op sel (if 1 ≤ operandPorts sel then a else 0) (if 2 ≤ operandPorts sel then b else 0) := by
  unfold decodeOpsel at h
  split at h
  case h_37 => cases h
  all_goals
    next selector =>
      cases h
      obtain rfl := byte_eq_ofNat selector
      rfl

theorem canonical_op_iff (sel : Byte) (a b : Int) :
    (Request.op sel a b).canonical = true ↔
      (1 ≤ operandPorts sel ∨ a = 0) ∧ (2 ≤ operandPorts sel ∨ b = 0) := by
  simp only [Request.canonical, Bool.and_eq_true, Bool.or_eq_true, decide_eq_true_eq, beq_iff_eq]

/-- A canonical request is the encoding of the instruction it decodes to. -/
theorem encode_of_decode {r : Request} {i : Instr} (hc : r.canonical = true) (h : decode r = .ok i) : encode i = r := by
  cases r with
  | op sel a b =>
    obtain ⟨ha, hb⟩ := (canonical_op_iff sel a b).1 hc
    have portA : (if 1 ≤ operandPorts sel then a else 0) = a := ite_eq_left_iff.2 fun unused => (ha.resolve_left unused).symm
    have portB : (if 2 ≤ operandPorts sel then b else 0) = b := ite_eq_left_iff.2 fun unused => (hb.resolve_left unused).symm
    rw [encode_of_decodeOpsel h, portA, portB]
  | frame op => exact encode_of_decodeOpcode h

/-! ### The obligations -/

/-- Settles O43: the encodings are canonical row by row, and the two directions are `encode_of_decode` and `decode_encode`. -/
theorem decodeAndEncodeAgree : Obligations.DecodeAndEncodeAgree := by
  refine ⟨fun i => by cases i <;> rfl, fun r i hc => ⟨encode_of_decode hc, ?_⟩⟩
  rintro rfl
  exact decode_encode i

theorem frameLength_isSome_iff (op : Byte) : (∃ i, decode (.frame op) = .ok i) ↔ (frameLength op).isSome := by
  change (∃ i, decodeOpcode op = .ok i) ↔ _
  rcases decodeOpcode_cases op with ⟨i, n, hd, hn, -⟩ | ⟨hd, hn⟩ <;> simp [hd, hn, frameLength]

/-- The lengths of R88, one byte more than the payload's. -/
theorem frameLength_cases {op : Byte} {n : Nat} (h : frameLength op = some n) : n = 1 ∨ n = 2 ∨ n = 3 ∨ n = 5 := by
  rcases decodeOpcode_cases op with ⟨i, m, -, hm, lengths⟩ | ⟨-, none⟩
  · obtain rfl : m + 1 = n := by simpa [frameLength, hm] using h
    omega
  · simp [frameLength, none] at h

/-- Settles O44: that an opcode has a length, and which lengths there are, from the table's rows; which byte has which length by
looking at the 256 bytes. -/
theorem wireOpcodesAndFrameLengths : Obligations.WireOpcodesAndFrameLengths := by
  have table : ∀ op : Byte, (frameLength op = some 1 ↔ op = 0x50#8 ∨ op = 0x70#8) ∧
      (frameLength op = some 2 ↔ op = 0xB5#8) ∧ (frameLength op = some 3 ↔ op = 0xB4#8) ∧
      (frameLength op = some 5 ↔ (0x80#8 ≤ op ∧ op ≤ 0x86#8) ∨ (0xB0#8 ≤ op ∧ op ≤ 0xB3#8)) := by decide
  intro op
  obtain ⟨one, two, three, five⟩ := table op
  exact ⟨frameLength_isSome_iff op, one, two, three, five, fun _ => frameLength_cases⟩

/-- Settles O45: each row's byte evaluated. -/
theorem writtenOutWordsDecode : Obligations.WrittenOutWordsDecode := by
  unfold Obligations.WrittenOutWordsDecode
  decide

end Sys2Proof.Machine
end

section
/-! What every instruction keeps, and the step, settled (10_state.md R23, 42_clock_predivider.md R153, 47_transactions.md R231,
R246; 60_exceptions.md R300; 70_reset_and_hazards.md R330). -/

namespace Sys2Proof.Machine

variable {i : Instr} {s t : State}

/-! ### What every instruction keeps -/

/-- An instruction that answers is an operation on the bus, a setter or a read. -/
theorem exec_next_cases (h : exec i s = .next t) :
    (usesBus i = true ∧ ((∃ v, t = s.ret v) ∨ ∃ fin xs, Sends i fin xs ∧ t = transact fin (xs s) s)) ∨
    (isSetter i = true ∧ ∃ u c, Puts (fieldsOf i) s u ∧ t = (u.setConv c).ret none ∧
      ((∀ n, i ≠ .setPrediv n) → c = s.conv)) ∨
    (∃ v, t = s.ret v ∨ t = s.drawn.ret v) := by
  cases hb : usesBus i with
  | true => exact .inl ⟨rfl, exec_bus_next hb h⟩
  | false =>
    cases hs : isSetter i with
    | true => exact .inr (.inl ⟨rfl, exec_setter_cases hs h⟩)
    | false => exact .inr (.inr (exec_read_cases hb hs h))

/-- Settles O36: operations on the bus by the frame of `transact`, setters by what writing a field keeps. -/
theorem whoWritesWhichState : Obligations.WhoWritesWhichState := by
  intro i s t h
  rcases exec_next_cases h with ⟨-, ⟨v, rfl⟩ | ⟨fin, xs, sends, rfl⟩⟩ | ⟨setter, u, c, reached, rfl, factor⟩ |
    ⟨v, rfl | rfl⟩
  case inl.inr =>
    obtain ⟨cfg, conv, host, par, stat⟩ := transact_frame fin (xs s) s
    refine ⟨fun _ => cfg, fun _ => conv, fun h1 h2 => stat fun e => ?_, par, host⟩
    rcases sends.statusOnly e with e | e
    · exact h1 e
    · exact h2 e
  case inr.inl =>
    refine ⟨fun reader => absurd setter (by simp [reader]), factor, fun _ _ => ?_, reached.par_eq, ?_⟩
    · rw [State.ret_stat, State.setConv_stat, reached.onlyCfg]
    · rw [State.ret_host, State.setConv_host, reached.onlyCfg]
  all_goals exact ⟨fun _ => rfl, fun _ => rfl, fun _ _ => rfl, rfl, rfl⟩

theorem par_of_exec (h : exec i s = .next t) : t.par = s.par := by
  obtain ⟨-, -, -, par, -⟩ := whoWritesWhichState i s t h
  exact par

theorem conv_of_exec (h : exec i s = .next t) (other : ∀ n, i ≠ .setPrediv n) : t.conv = s.conv := by
  obtain ⟨-, conv, -, -, -⟩ := whoWritesWhichState i s t h
  exact conv other

theorem cfg_of_exec (h : exec i s = .next t) (reader : isSetter i = false) : t.cfg = s.cfg := by
  obtain ⟨cfg, -, -, -, -⟩ := whoWritesWhichState i s t h
  exact cfg reader

theorem get_congr (hc : t.cfg = s.cfg) (hp : t.par = s.par) (f : Field) : t.get f = s.get f := by
  rw [State.get, State.get, hc, hp]

/-- An instruction keeps every named field it may not write. -/
theorem get_of_exec (hp : s.par.ok = true) (h : exec i s = .next t) {f : Field} (hf : f ∉ fieldsOf i) :
    t.get f = s.get f := by
  cases hs : isSetter i with
  | true =>
    obtain ⟨u, c, reached, rfl, -⟩ := exec_setter_cases hs h
    exact reached.get_of_not_mem hp hf
  | false => exact get_congr (cfg_of_exec h hs) (par_of_exec h) f

theorem wf_of_exec (hc : s.cfg.wf = true) (h : exec i s = .next t) : t.cfg.wf = true := by
  cases hs : isSetter i with
  | true =>
    obtain ⟨u, c, reached, rfl, -⟩ := exec_setter_cases hs h
    exact reached.wf hc
  | false => rwa [cfg_of_exec h hs]

/-- Settles O37: a setter changes the image and the factor, a read the result port; an idle block holds nothing. -/
theorem localOperationsAreSilentOnTheWire : Obligations.LocalOperationsAreSilentOnTheWire := by
  intro i s t hb h
  obtain ⟨hj, hcs⟩ := idle_iff.1 (idle_of_exec_next h)
  rcases exec_next_cases h with ⟨bus, -⟩ | ⟨-, u, c, reached, rfl, -⟩ | ⟨v, rfl | rfl⟩
  · rw [hb] at bus; cases bus
  · rw [reached.onlyCfg]
    exact ⟨rfl, rfl, hcs, rfl, hj⟩
  all_goals exact ⟨rfl, rfl, hcs, rfl, hj⟩

/-! ### The conversion factor -/

/-- SET_PREDIV leaves a coherent factor: it sets the two together, or, with another operand, neither. -/
theorem convCoherent_setPrediv {n : Int} (hp : s.par.ok = true) (h : exec (.setPrediv n) s = .next t)
    (hc : ConvCoherent s) : ConvCoherent t := by
  have hi := idle_of_exec_next h
  cases hcode : predivCode s.par n with
  | none =>
    obtain rfl : s.ret none = t := by simpa [exec_setPrediv_of_none hi hcode] using h
    exact hc
  | some code =>
    obtain rfl : ((s.put .prediv code).setConv (convOf n)).ret none = t := by
      simpa [exec_setPrediv_of_some hi hcode] using h
    have stored : (s.put .prediv code).get .prediv = code :=
      (fieldsWritten_prediv hp hcode).1 (.prediv, code) (List.mem_singleton_self _)
    rw [ConvCoherent, get_ret, get_setConv, stored, predivValue_of_predivCode hp hcode]
    rfl

theorem prediv_not_mem_fieldsOf (other : ∀ n, i ≠ .setPrediv n) : Field.prediv ∉ fieldsOf i := by
  cases i
  case setPrediv n => exact absurd rfl (other n)
  all_goals simp [fieldsOf]

/-- Settles O13: at reset by definition; SET_PREDIV writes both, every other instruction neither. -/
theorem convFollowsPredivider : Obligations.ConvFollowsPredivider := by
  refine ⟨fun p v _ => rfl, fun s t i hp h => ?_⟩
  have kept (other : ∀ n, i ≠ .setPrediv n) : t.conv = s.conv ∧ t.get .prediv = s.get .prediv :=
    ⟨conv_of_exec h other, get_of_exec hp h (prediv_not_mem_fieldsOf other)⟩
  refine ⟨fun hc => ?_, kept⟩
  by_cases hi : ∃ n, i = .setPrediv n
  · obtain ⟨n, rfl⟩ := hi
    exact convCoherent_setPrediv hp h hc
  · obtain ⟨conv, code⟩ := kept fun n e => hi ⟨n, e⟩
    rw [ConvCoherent, conv, code]
    exact hc

/-! ### The step -/

section
variable {r : Request} {rest : List HostAction} (hj : s.job = none) (hh : s.host = .issue r :: rest)
include hj hh

theorem step_of_decoded (hd : decode r = .ok i) : step s = exec i { s with host := rest } := by
  have taken : s.taken = { s with host := rest } := by rw [State.taken, hh]; rfl
  simp only [step, hj, hh, hd, taken]

theorem step_of_unknownOpsel {sel : Byte} (hd : decode r = .error (.unknownOpsel sel)) :
    step s = .next { s with host := rest, q := none } := by
  have taken : selectNothing s = { s with host := rest, q := none } := by rw [selectNothing, State.taken, hh]; rfl
  simp only [step, hj, hh, hd, taken]

theorem step_of_unknownOpcode {op : Byte} (hd : decode r = .error (.unknownOpcode op)) :
    step s = .refused (.opcodeNeverEmitted op) := by
  simp only [step, hj, hh, hd]

end

/-- Settles O46. -/
theorem stepRunsTheDecodedInstruction : Obligations.StepRunsTheDecodedInstruction :=
  fun _ _ _ _ => step_of_decoded

/-- Settles O47: an unknown selector is one the decoder refuses as such, and a byte without a frame length is an unknown
opcode. -/
theorem unknownSelectorsDoNothing : Obligations.UnknownSelectorsDoNothing := by
  intro s rest hj
  constructor
  · intro sel a b unknown hh
    rcases decodeOpsel_cases sel a b with ⟨_, _, lo, hi⟩ | ⟨hd, -⟩
    · rcases unknown with rfl | above
      · exact absurd lo (by decide)
      · exact absurd (BitVec.lt_def.1 above) (not_lt.2 hi)
    · exact step_of_unknownOpsel hj hh hd
  · intro op hop hh
    rcases decodeOpcode_cases op with ⟨_, n, -, hn, -⟩ | ⟨hd, -⟩
    · simp [frameLength, hn] at hop
    · exact step_of_unknownOpcode hj hh hd

/-- Settles O48. -/
theorem nothingHappensBetweenOperations : Obligations.NothingHappensBetweenOperations := by
  intro s hj hh
  rw [step, hj, hh]

/-- Settles O49: every meaning is one `perform`, which refuses in a state that is not idle. -/
theorem noOperationStartsInsideAnother : Obligations.NoOperationStartsInsideAnother :=
  fun i _ busy => exec_of_busy busy i

/-- Between operations the invariant says that the block is idle. -/
theorem Inv.idle (inv : Inv s) (hj : s.job = none) : s.idle = true := by
  have held := inv.held
  rw [hj] at held
  exact idle_iff.2 ⟨hj, held.1⟩

/-- Settles O50: an operation in progress goes on, a reset and an unknown selector make a next state, and a decoded instruction
finds the block idle; only a byte outside the opcodes is refused. -/
theorem noOperationRaises : Obligations.NoOperationRaises := by
  intro s inv
  cases hj : s.job with
  | some j => exact .inl ⟨resume j s, by rw [step, hj]⟩
  | none =>
    match hh : s.host with
    | [] => exact .inl ⟨s, nothingHappensBetweenOperations s hj hh⟩
    | .reset :: rest => exact .inl ⟨resetEvent s, by rw [step, hj, hh]⟩
    | .issue r :: rest =>
      have goes_on {i : Instr} (hd : decode r = .ok i) : ∃ t, step s = .next t := by
        rw [step_of_decoded hj hh hd]
        exact exec_of_idle (s := { s with host := rest }) (inv.idle hj) i
      match r with
      | .op sel a b =>
        rcases decodeOpsel_cases sel a b with ⟨i, hd, -⟩ | ⟨hd, -⟩
        · exact .inl (goes_on hd)
        · exact .inl ⟨_, step_of_unknownOpsel hj hh hd⟩
      | .frame op =>
        rcases decodeOpcode_cases op with ⟨i, n, hd, -⟩ | ⟨-, hn⟩
        · exact .inl (goes_on hd)
        · exact .inr ⟨op, rest, rfl, rfl, by rw [frameLength, hn]; rfl⟩

/-! ### Reset -/

theorem reg_defaultImage :
    Cfg.reg [] 0 = 0xF3076800#32 ∧ Cfg.reg [] 1 = 0x21420000#32 ∧ Cfg.reg [] 2 = 0x20000000#32 ∧
    Cfg.reg [] 3 = 0x20000000#32 ∧ Cfg.reg [] 4 = 0x20000000#32 ∧ Cfg.reg [] 5 = 0x40000000#32 ∧
    Cfg.reg [] 6 = 0x40206000#32 := by decide

/-- Settles O52: the image lists nothing, so every register reads as the default image's. -/
theorem resetStateIsDefaultImage : Obligations.ResetStateIsDefaultImage := by
  obtain ⟨r0, r1, r2, r3, r4, r5, r6⟩ := reg_defaultImage
  refine ⟨fun p v => ⟨r0, r1, r2, r3, r4, r5, r6, rfl, rfl, rfl, rfl, rfl, rfl⟩, rfl, ?_⟩
  have code : State.reset.get .prediv = 0 := by decide
  change convOf (predivValue (State.reset.get .prediv)) = 1 / 2 ^ 18
  rw [code, convOf_eq_div]
  rfl

/-- Settles O53. -/
theorem resetEventRestoresDefaults : Obligations.ResetEventRestoresDefaults := by
  intro s rest hj hh
  refine ⟨resetEvent s, Config.statReset s.draws, by rw [step, hj, hh], ?_⟩
  rw [resetEvent, hh]
  rfl

/-- Settles O54. -/
theorem invariantHoldsAtReset : Obligations.InvariantHoldsAtReset where
  params := by decide
  canonical := rfl
  resolution := ⟨by decide, by decide⟩
  resetLegal := ⟨by decide, by decide⟩
  factor := rfl
  held := ⟨rfl, rfl⟩
  frames := rfl

end Sys2Proof.Machine
end

section
/-! The byte space and the laws of the field engine settled (20_memory.md R51, 40_field_engine.md R118). Each law holds bit by bit,
and canonical images whose registers have the same bits are equal. -/

namespace Sys2Proof.Machine

/-! ### MemWrite and MemRead -/

theorem setWidth_shiftRight (v : Word) (m : Nat) : (v >>> m).setWidth 8 = BitVec.ofNat 8 (v.toNat / 2 ^ m) := by
  apply BitVec.eq_of_toNat_eq
  rw [BitVec.toNat_setWidth, BitVec.toNat_ushiftRight, BitVec.toNat_ofNat, Nat.shiftRight_eq_div_pow]

/-- Reading back the bytes of a value that fits them. -/
theorem memRead_memWrite (c : Cfg) (addr : Nat) {n : Nat} (hn : n ≤ 4) {v : Word} (fits : v.toNat < 2 ^ (8 * n)) :
    memRead (memWrite c addr n v) addr n = v := by
  apply BitVec.eq_of_getLsbD_eq
  intro i hi
  rw [getLsbD_memRead _ _ _ _ hi hn]
  by_cases inside : i < 8 * n
  · have byte : addr ≤ addr + (n - 1 - i / 8) ∧ addr + (n - 1 - i / 8) < addr + n := by omega
    have bit : 8 * (n - 1 - (addr + (n - 1 - i / 8) - addr)) + i % 8 = i := by omega
    rw [byte_memWrite, if_pos byte, BitVec.getLsbD_setWidth, BitVec.getLsbD_ushiftRight, bit]
    simp [inside, Nat.mod_lt]
  · have clear : v.getLsbD i = false :=
      Nat.testBit_lt_two_pow (fits.trans_le (Nat.pow_le_pow_right (by decide) (not_lt.1 inside)))
    simp [inside, clear]

/-- One more byte is read at the end: the value so far moves up by eight bits. -/
theorem memRead_succ (c : Cfg) (addr n : Nat) :
    memRead c addr (n + 1) = memRead c addr n <<< 8 ||| (c.byte (addr + n)).setWidth 32 := by
  induction n generalizing addr with
  | zero => simp [memRead]
  | succ n ih =>
    have last : addr + 1 + n = addr + (n + 1) := by omega
    rw [memRead, ih (addr + 1), memRead, BitVec.shiftLeft_or_distrib, ← BitVec.shiftLeft_add, last, Nat.mul_succ,
      BitVec.or_assoc]

/-- The bytes at n addresses, the first first. -/
abbrev bytesAt (c : Cfg) (addr n : Nat) : List Byte := (List.range n).map fun k => c.byte (addr + k)

theorem bytesAt_succ (c : Cfg) (addr n : Nat) : bytesAt c addr (n + 1) = bytesAt c addr n ++ [c.byte (addr + n)] := by
  rw [bytesAt, List.range_succ, List.map_append, List.map_singleton]

/-- `MemRead` is the big-endian assembly of its bytes. -/
theorem memRead_eq_be (c : Cfg) (addr n : Nat) : memRead c addr n = BitVec.ofNat 32 (be (bytesAt c addr n)) := by
  induction n with
  | zero => rfl
  | succ n ih => rw [memRead_succ, ih, bytesAt_succ, ofNat_be_concat]

theorem be_concat (bs : List Byte) (b : Byte) : be (bs ++ [b]) = be bs * 256 + b.toNat := by
  rw [be, List.foldl_append]
  rfl

theorem be_lt (bs : List Byte) : be bs < 2 ^ (8 * bs.length) := by
  induction bs using List.reverseRecOn with
  | nil => decide
  | append_singleton bs b ih =>
    have byte : b.toNat < 2 ^ 8 := b.isLt
    rw [be_concat, List.length_append, List.length_singleton, Nat.mul_add, Nat.pow_add]
    omega

theorem toNat_memRead (c : Cfg) (addr : Nat) {n : Nat} (hn : n ≤ 4) :
    (memRead c addr n).toNat = be (bytesAt c addr n) := by
  have fits : be (bytesAt c addr n) < 2 ^ 32 := by
    refine (be_lt _).trans_le (Nat.pow_le_pow_right (by decide) ?_)
    rw [List.length_map, List.length_range]
    omega
  rw [memRead_eq_be, BitVec.toNat_ofNat, Nat.mod_eq_of_lt fits]

/-- Settles O1: the bytes written are those of `byte_memWrite`, and four of them assemble to at most 32 bits. -/
theorem memWriteThenMemRead : Obligations.MemWriteThenMemRead := by
  intro c addr n v _ inRegister inSpace fits
  have hn : n ≤ 4 := by omega
  refine ⟨memRead_memWrite c addr hn fits, fun k hk => ?_, fun a outside => ?_, toNat_memRead c addr hn, fun hc => ?_⟩
  · have place : n - 1 - (addr + k - addr) = n - 1 - k := by omega
    rw [byte_memWrite, if_pos (by omega), place, setWidth_shiftRight]
  · rw [byte_memWrite, if_neg outside]
  · exact wf_memWrite hc inSpace v

/-! ### The laws of the field engine -/

theorem disjoint_iff (d e : Desc) :
    d.disjoint e = true ↔ d.reg ≠ e.reg ∨ d.lsb + d.width ≤ e.lsb ∨ e.lsb + e.width ≤ d.lsb := by
  simp [Desc.disjoint, or_assoc]

/-- Disjoint descriptors share no bit. -/
theorem covers_false_of_disjoint {d e : Desc} (h : d.disjoint e = true) {r : Reg} {i : Nat} (hd : d.covers r i = true) :
    e.covers r i = false := by
  obtain ⟨rfl, lo, hi⟩ := (covers_iff d r i).1 hd
  refine Bool.eq_false_iff.2 fun he => ?_
  obtain ⟨same, lo', hi'⟩ := (covers_iff e d.reg i).1 he
  rcases (disjoint_iff d e).1 h with other | below | above
  · exact other same.symm
  · omega
  · omega

/-- The last write of a field wins (R118 (d)). -/
theorem fieldSet_fieldSet_self {c : Cfg} (hc : c.wf = true) {d : Desc} (hd : d.ok = true) (u v : Int) :
    fieldSet (fieldSet c d u) d v = fieldSet c d v := by
  refine Cfg.ext_of_bits (wf_fieldSet (wf_fieldSet hc d u) d v) (wf_fieldSet hc d v) fun r i hi => ?_
  rw [getLsbD_reg_fieldSet _ _ hd _ _ _ hi, getLsbD_reg_fieldSet _ _ hd _ _ _ hi, getLsbD_reg_fieldSet _ _ hd _ _ _ hi]
  split <;> rfl

/-- Writes of disjoint fields commute (R118 (e)). -/
theorem fieldSet_comm {c : Cfg} (hc : c.wf = true) {d e : Desc} (hd : d.ok = true) (he : e.ok = true)
    (hde : d.disjoint e = true) (u v : Int) :
    fieldSet (fieldSet c d v) e u = fieldSet (fieldSet c e u) d v := by
  refine Cfg.ext_of_bits (wf_fieldSet (wf_fieldSet hc d v) e u) (wf_fieldSet (wf_fieldSet hc e u) d v) fun r i hi => ?_
  rw [getLsbD_reg_fieldSet _ _ he _ _ _ hi, getLsbD_reg_fieldSet _ _ hd _ _ _ hi, getLsbD_reg_fieldSet _ _ hd _ _ _ hi,
    getLsbD_reg_fieldSet _ _ he _ _ _ hi]
  by_cases hcov : d.covers r i = true
  · simp [hcov, covers_false_of_disjoint hde hcov]
  · simp [hcov]

/-- Settles O4: idempotence is the case of the overwrite in which the values are the same. -/
theorem fieldEngineLaws : Obligations.FieldEngineLaws := by
  refine ⟨fun c d e u v hc hd he hde => ⟨?_, ?_, ?_, ?_, ?_, ?_⟩, fun s f v => rfl⟩
  · exact fieldGet_fieldSet_self c d hd v
  · exact fieldGet_fieldSet_of_disjoint c d e hd he hde v
  · exact fun _ _ => getLsbD_reg_fieldSet_outside c d hd v
  · exact fieldSet_fieldSet_self hc hd v v
  · exact fieldSet_fieldSet_self hc hd u v
  · exact fieldSet_comm hc hd he hde u v

end Sys2Proof.Machine
end

section
/-! Resolution and measurement mode settled (41_resolution_and_mode.md R130 to R138, 70_reset_and_hazards.md R342). The effects of the
four setters are stated once; legality and the order of operations are then facts about the fields they leave. -/

namespace Sys2Proof.Machine

/-! ### Using what a setter does -/

variable {i : Instr} {s t : State}

/-- What is known of some next state of an instruction holds of the one it answers. -/
theorem of_exec_next {P : State → Prop} (h : exec i s = .next t) (he : ∃ t', exec i s = .next t' ∧ P t') : P t := by
  obtain ⟨t', h', ht'⟩ := he
  obtain rfl : t' = t := by simpa [h'] using h
  exact ht'

section
variable {fs : List (Field × Nat)} (h : SetterEffect fs s t)
include h

theorem SetterEffect.get_written {f : Field} {n : Nat} (hf : (f, n) ∈ fs) : t.get f = n := h.1.1 (f, n) hf

theorem SetterEffect.get_kept {g : Field} (hg : g ∉ fs.map Prod.fst) : t.get g = s.get g := h.1.2.1 g hg

theorem SetterEffect.keptOutside : ImageKeptOutside (fs.map Prod.fst) s t := h.1.2.2

theorem SetterEffect.par_eq : t.par = s.par := by rw [h.2]

theorem SetterEffect.idle_eq : t.idle = s.idle := by rw [h.2]; rfl

end

/-- A field one bit wide reads 0 or 1. -/
theorem get_bit (hp : s.par.ok = true) (f : Field) (hw : f.width = 1 := by rfl) : s.get f = 0 ∨ s.get f = 1 := by
  have := get_lt hp f
  rw [hw] at this
  omega

/-! ### SET_MEAS_MODE -/

theorem exec_setMeasMode_one (hi : s.idle = true) : exec (.setMeasMode 1) s = .next ((enterMode1 s).ret none) :=
  perform_of_idle hi

theorem exec_setMeasMode_two (hi : s.idle = true) : exec (.setMeasMode 2) s = .next ((s.put .mm 1).ret none) :=
  perform_of_idle hi

theorem exec_setMeasMode_other (hi : s.idle = true) {m : Int} (h1 : m ≠ 1) (h2 : m ≠ 2) :
    exec (.setMeasMode m) s = .next (s.ret none) := by
  rw [exec, execSetMeasMode, perform_of_idle hi, if_neg h1, if_neg h2]

/-- The downgrade looks at the quad bit, which the mode's field does not touch (R136). -/
theorem enterMode1_of_quad (hp : s.par.ok = true) (hq : s.get .quad = 1) :
    enterMode1 s = ((s.put .mm 0).put .quad 0).put .double 1 := by
  rw [enterMode1, if_pos]
  rwa [get_put_ne hp (by decide)]

theorem enterMode1_of_not_quad (hp : s.par.ok = true) (hq : s.get .quad = 0) : enterMode1 s = s.put .mm 0 := by
  rw [enterMode1, if_neg]
  rw [get_put_ne hp (by decide), hq]
  exact Nat.zero_ne_one

/-- Settles O7: the two values of the quad bit are the two branches of mode 1. -/
theorem setMeasModeForcesDowngrade : Obligations.SetMeasModeForcesDowngrade := by
  intro s hi hp
  refine ⟨fun quad => ?_, fun single => ?_, ?_, fun m h1 h2 => exec_setMeasMode_other hi h1 h2⟩
  · refine ⟨_, exec_setMeasMode_one hi, ?_⟩
    rw [enterMode1_of_quad hp quad]
    exact setterEffect_three hp (by decide) (by decide) (by decide) 0 0 1 rfl rfl rfl
  · refine ⟨_, exec_setMeasMode_one hi, ?_⟩
    rw [enterMode1_of_not_quad hp single]
    exact setterEffect_one hp .mm 0 rfl
  · exact ⟨_, exec_setMeasMode_two hi, setterEffect_one hp .mm 1 rfl⟩

/-! ### The getters -/

/-- Settles O8: the model's boolean tests on a stored bit are the statement's. -/
theorem resolutionAndModeGetters : Obligations.ResolutionAndModeGetters := by
  intro s hi
  have single : singleOf (s.get .double) (s.get .quad) = decide (s.get .double = 0 ∧ s.get .quad = 0) := by
    rw [singleOf, Bool.decide_and]
    rfl
  refine ⟨?_, perform_of_idle hi, perform_of_idle hi, perform_of_idle hi⟩
  rw [← single]
  exact perform_of_idle hi

/-! ### Legality -/

theorem resolutionLegal_of_quad_clear (h : t.get .quad = 0) : ResolutionLegal t := by
  simp [ResolutionLegal, h]

theorem resolutionLegal_of_double_clear (hd : t.get .double = 0) (hm : t.get .mm = 1) : ResolutionLegal t := by
  simp [ResolutionLegal, hd, hm]

/-- Only the four setters of the resolution and the mode write their three fields. -/
theorem resolution_not_mem_fieldsOf (h1 : i ≠ .setSingle) (h2 : i ≠ .setDouble) (h3 : i ≠ .setQuad)
    (h4 : ∀ m, i ≠ .setMeasMode m) :
    Field.double ∉ fieldsOf i ∧ Field.quad ∉ fieldsOf i ∧ Field.mm ∉ fieldsOf i := by
  cases i
  case setSingle => exact absurd rfl h1
  case setDouble => exact absurd rfl h2
  case setQuad => exact absurd rfl h3
  case setMeasMode m => exact absurd rfl (h4 m)
  all_goals simp [fieldsOf]

section
variable (hp : s.par.ok = true)
include hp

theorem resolution_kept (h : exec i s = .next t) (h1 : i ≠ .setSingle) (h2 : i ≠ .setDouble) (h3 : i ≠ .setQuad)
    (h4 : ∀ m, i ≠ .setMeasMode m) :
    t.get .double = s.get .double ∧ t.get .quad = s.get .quad ∧ t.get .mm = s.get .mm := by
  obtain ⟨double, quad, mm⟩ := resolution_not_mem_fieldsOf h1 h2 h3 h4
  exact ⟨get_of_exec hp h double, get_of_exec hp h quad, get_of_exec hp h mm⟩

theorem resolutionLegal_setSingle (h : exec .setSingle s = .next t) : ResolutionLegal t := by
  have effect := of_exec_next h (setSingleAndSetDouble s (idle_of_exec_next h) hp).1
  exact resolutionLegal_of_quad_clear (effect.get_written (by simp))

theorem resolutionLegal_setDouble (h : exec .setDouble s = .next t) : ResolutionLegal t := by
  have effect := of_exec_next h (setSingleAndSetDouble s (idle_of_exec_next h) hp).2
  exact resolutionLegal_of_quad_clear (effect.get_written (by simp))

theorem resolutionLegal_setQuad (h : exec .setQuad s = .next t) (mode2 : s.get .mm = 1) : ResolutionLegal t := by
  have effect := of_exec_next h ((setQuadOnlyInMode2 s (idle_of_exec_next h) hp).1 mode2)
  have mm : t.get .mm = s.get .mm := effect.get_kept (by simp)
  exact resolutionLegal_of_double_clear (effect.get_written (by simp)) (mm.trans mode2)

theorem resolutionLegal_setMeasMode_one (h : exec (.setMeasMode 1) s = .next t) : ResolutionLegal t := by
  obtain ⟨downgrade, keep, -, -⟩ := setMeasModeForcesDowngrade s (idle_of_exec_next h) hp
  rcases get_bit hp .quad with single | quad
  · have effect := of_exec_next h (keep single)
    have kept : t.get .quad = s.get .quad := effect.get_kept (by simp)
    exact resolutionLegal_of_quad_clear (kept.trans single)
  · exact resolutionLegal_of_quad_clear ((of_exec_next h (downgrade quad)).get_written (by simp))

theorem setMeasMode_two_effect (h : exec (.setMeasMode 2) s = .next t) : SetterEffect [(.mm, 1)] s t := by
  obtain ⟨-, -, mode2, -⟩ := setMeasModeForcesDowngrade s (idle_of_exec_next h) hp
  exact of_exec_next h mode2

/-- Every instruction keeps a legal resolution legal: the setters repair it or are refused, SET_MEAS_MODE(2) admits more, and
nothing else writes the three fields. -/
theorem resolutionLegal_of_exec (h : exec i s = .next t) (legal : ResolutionLegal s) : ResolutionLegal t := by
  have hi := idle_of_exec_next h
  cases i
  case setSingle => exact resolutionLegal_setSingle hp h
  case setDouble => exact resolutionLegal_setDouble hp h
  case setQuad =>
    rcases get_bit hp .mm with mode1 | mode2
    · obtain rfl : s.ret none = t := by simpa [exec_setQuad_of_mode1 hi mode1] using h
      exact legal
    · exact resolutionLegal_setQuad hp h mode2
  case setMeasMode m =>
    by_cases h1 : m = 1
    · subst h1
      exact resolutionLegal_setMeasMode_one hp h
    by_cases h2 : m = 2
    · subst h2
      have effect := setMeasMode_two_effect hp h
      have double : t.get .double = s.get .double := effect.get_kept (by simp)
      have quad : t.get .quad = s.get .quad := effect.get_kept (by simp)
      have mode2 : t.get .mm = 1 := effect.get_written (by simp)
      refine ⟨double ▸ quad ▸ legal.1, fun ⟨_, mode1⟩ => ?_⟩
      omega
    · obtain rfl : s.ret none = t := by simpa [exec_setMeasMode_other hi h1 h2] using h
      exact legal
  all_goals
    obtain ⟨double, quad, mm⟩ := resolution_kept hp h nofun nofun nofun nofun
    rw [ResolutionLegal, double, quad, mm]
    exact legal

end

/-- Settles O9. -/
theorem resolutionLegalityIsKept : Obligations.ResolutionLegalityIsKept := by
  intro s hp
  refine ⟨fun i t => resolutionLegal_of_exec hp, fun i t h repairs => ?_, fun t h => ?_, fun t h mode1 => ?_,
    fun i t => resolution_kept hp⟩
  · rcases repairs with rfl | rfl | rfl | ⟨rfl, mode2⟩
    · exact resolutionLegal_setSingle hp h
    · exact resolutionLegal_setDouble hp h
    · exact resolutionLegal_setMeasMode_one hp h
    · exact resolutionLegal_setQuad hp h mode2
  · have effect := setMeasMode_two_effect hp h
    exact ⟨effect.get_kept (by simp), effect.get_kept (by simp), effect.get_written (by simp)⟩
  · obtain rfl : s.ret none = t := by simpa [exec_setQuad_of_mode1 (idle_of_exec_next h) mode1] using h
    rfl

/-! ### The order of SET_MEAS_MODE and SET_QUAD -/

/-- Settles O10: each pair of operations by the effect of the first and then of the second. -/
theorem quadDependsOnModeOrder : Obligations.QuadDependsOnModeOrder := by
  intro s hi hp
  obtain ⟨downgrade, -, ⟨m, enter2, effect2⟩, -⟩ := setMeasModeForcesDowngrade s hi hp
  refine ⟨?_, fun mode1 => ?_, fun quad => ?_⟩
  · have mode2 : m.get .mm = 1 := effect2.get_written (by simp)
    obtain ⟨u, setQuad, effect⟩ := (setQuadOnlyInMode2 m (effect2.idle_eq.trans hi) (effect2.par_eq ▸ hp)).1 mode2
    exact ⟨m, u, enter2, setQuad, effect.get_written (by simp), effect.get_written (by simp)⟩
  · have effect : SetterEffect [(.mm, 1)] (s.ret none) (((s.ret none).put .mm 1).ret none) :=
      setterEffect_one hp .mm 1 rfl
    exact ⟨s.ret none, _, exec_setQuad_of_mode1 hi mode1, exec_setMeasMode_two (s := s.ret none) hi,
      effect.get_kept (by simp), effect.get_kept (by simp)⟩
  · obtain ⟨t, enter1, effect1⟩ := downgrade quad
    have hi' : t.idle = true := effect1.idle_eq.trans hi
    have effect : SetterEffect [(.mm, 1)] t ((t.put .mm 1).ret none) :=
      setterEffect_one (effect1.par_eq ▸ hp) .mm 1 rfl
    refine ⟨t, _, enter1, exec_setMeasMode_two hi', ?_, ?_⟩
    · exact (effect.get_kept (by simp)).trans (effect1.get_written (by simp))
    · exact (effect.get_kept (by simp)).trans (effect1.get_written (by simp))

end Sys2Proof.Machine
end

section
/-! Hit counts, ALU operators and relative delays settled (43_hits_and_alu_operators.md R160 to R165, 46_relative_delays.md R221 to
R223). An index operand names a field or none; the setter writes that field or nothing, the getter reads it or answers 0. -/

namespace Sys2Proof.Machine

variable {s : State} {f : Field} {ch n k v : Int}

/-! ### The fields the index operands name -/

theorem hitsField_eq_some_iff : hitsField ch = some f ↔ (ch = 1 ∧ f = .hitin1) ∨ (ch = 2 ∧ f = .hitin2) := by
  unfold hitsField
  split_ifs <;> grind

theorem hitsField_eq_none (h1 : ch ≠ 1) (h2 : ch ≠ 2) : hitsField ch = none := by
  rw [hitsField, if_neg h1, if_neg h2]

theorem hitOpField_eq_some_iff : hitOpField k = some f ↔ (k = 1 ∧ f = .hitop1) ∨ (k = 2 ∧ f = .hitop2) := by
  unfold hitOpField
  split_ifs <;> grind

theorem hitOpField_eq_none (h1 : k ≠ 1) (h2 : k ≠ 2) : hitOpField k = none := by
  rw [hitOpField, if_neg h1, if_neg h2]

theorem delrelField_eq_some_iff :
    delrelField k = some f ↔ (k = 1 ∧ f = .delrel1) ∨ (k = 2 ∧ f = .delrel2) ∨ (k = 3 ∧ f = .delrel3) := by
  unfold delrelField
  split_ifs <;> grind

theorem delrelField_eq_none (h1 : k ≠ 1) (h2 : k ≠ 2) (h3 : k ≠ 3) : delrelField k = none := by
  rw [delrelField, if_neg h1, if_neg h2, if_neg h3]

/-! ### SET_HITS and GET_HITS -/

theorem exec_setHits_of_field (hi : s.idle = true) (hf : hitsField ch = some f) (h0 : 0 ≤ n) (h4 : n ≤ 4) :
    exec (.setHits ch n) s = .next ((s.put f n).ret none) := by
  rw [exec, execSetHits, perform_of_idle hi, if_pos ⟨h0, h4⟩, hf, putOrNothing]

theorem exec_setHits_of_outside (hi : s.idle = true) (h : (ch ≠ 1 ∧ ch ≠ 2) ∨ n < 0 ∨ 4 < n) :
    exec (.setHits ch n) s = .next (s.ret none) := by
  rw [exec, execSetHits, perform_of_idle hi]
  split
  · next range =>
    obtain ⟨h1, h2⟩ : ch ≠ 1 ∧ ch ≠ 2 := h.resolve_right (by omega)
    rw [hitsField_eq_none h1 h2, putOrNothing]
  · rfl

theorem exec_getHits_of_field (hi : s.idle = true) (hf : hitsField ch = some f) :
    exec (.getHits ch) s = .next (s.ret (some (.num (s.get f)))) := by
  rw [exec, execGetHits, perform_of_idle hi, hf, getOrZero]

theorem exec_getHits_of_none (hi : s.idle = true) (hf : hitsField ch = none) :
    exec (.getHits ch) s = .next (s.ret (some (.num 0))) := by
  rw [exec, execGetHits, perform_of_idle hi, hf, getOrZero]

/-- A count of 0 to 4 is stored as it is: it fits the field's three bits. -/
theorem setterEffect_hits (hp : s.par.ok = true) (hf : hitsField ch = some f) (h0 : 0 ≤ n) (h4 : n ≤ 4) :
    SetterEffect [(f, n.toNat)] s ((s.put f n).ret none) := by
  have fits : n.toNat = (n % 8).toNat := by omega
  rcases hitsField_eq_some_iff.1 hf with ⟨-, rfl⟩ | ⟨-, rfl⟩ <;> exact setterEffect_one hp _ n fits

/-- Settles O14. -/
theorem setHitsStoresOrRejects : Obligations.SetHitsStoresOrRejects := by
  intro s ch n hi hp
  refine ⟨fun f named h0 h4 => ?_, exec_setHits_of_outside hi⟩
  have hf : hitsField ch = some f := hitsField_eq_some_iff.2 named
  exact ⟨_, exec_setHits_of_field hi hf h0 h4, setterEffect_hits hp hf h0 h4⟩

/-! ### SET_HIT_OP and GET_HIT_OP -/

theorem exec_setHitOp_of_field (hi : s.idle = true) (hf : hitOpField k = some f) :
    exec (.setHitOp k v) s = .next ((s.put f v).ret none) := by
  rw [exec, execSetHitOp, perform_of_idle hi, hf, putOrNothing]

theorem exec_setHitOp_of_none (hi : s.idle = true) (hf : hitOpField k = none) :
    exec (.setHitOp k v) s = .next (s.ret none) := by
  rw [exec, execSetHitOp, perform_of_idle hi, hf, putOrNothing]

theorem exec_getHitOp_of_field (hi : s.idle = true) (hf : hitOpField k = some f) :
    exec (.getHitOp k) s = .next (s.ret (some (.num (s.get f)))) := by
  rw [exec, execGetHitOp, perform_of_idle hi, hf, getOrZero]

theorem exec_getHitOp_of_none (hi : s.idle = true) (hf : hitOpField k = none) :
    exec (.getHitOp k) s = .next (s.ret (some (.num 0))) := by
  rw [exec, execGetHitOp, perform_of_idle hi, hf, getOrZero]

/-- An operator is stored mod 16: the field is four bits wide. -/
theorem setterEffect_hitOp (hp : s.par.ok = true) (hf : hitOpField k = some f) (v : Int) :
    SetterEffect [(f, (v % 16).toNat)] s ((s.put f v).ret none) := by
  rcases hitOpField_eq_some_iff.1 hf with ⟨-, rfl⟩ | ⟨-, rfl⟩ <;> exact setterEffect_one hp _ v rfl

/-- Settles O15. -/
theorem setHitOpStoresNibble : Obligations.SetHitOpStoresNibble := by
  intro s k v hi hp
  refine ⟨fun f named => ?_, fun h1 h2 => exec_setHitOp_of_none hi (hitOpField_eq_none h1 h2)⟩
  have hf : hitOpField k = some f := hitOpField_eq_some_iff.2 named
  exact ⟨_, exec_setHitOp_of_field hi hf, setterEffect_hitOp hp hf v⟩

/-- Settles O16. -/
theorem hitGettersReturnRawField : Obligations.HitGettersReturnRawField := by
  intro s hi
  exact ⟨exec_getHits_of_field hi rfl, exec_getHits_of_field hi rfl, exec_getHitOp_of_field hi rfl,
    exec_getHitOp_of_field hi rfl, fun k h1 h2 => ⟨exec_getHits_of_none hi (hitsField_eq_none h1 h2),
      exec_getHitOp_of_none hi (hitOpField_eq_none h1 h2)⟩⟩

/-- Settles O17: the getter reads the one field the setter has written, and the effect keeps the other three. -/
theorem hitSettersAreIndependent : Obligations.HitSettersAreIndependent := by
  intro s hi hp
  constructor
  · intro ch n channel h0 h4
    obtain ⟨f, hf, named⟩ : ∃ f, hitsField ch = some f ∧ ((ch = 1 ∧ f = .hitin1) ∨ (ch = 2 ∧ f = .hitin2)) := by
      rcases channel with rfl | rfl <;> exact ⟨_, rfl, by simp⟩
    have effect := setterEffect_hits hp hf h0 h4
    have stored : ((((s.put f n).ret none).get f : Nat) : Int) = n := by
      rw [effect.get_written (List.mem_singleton_self _), Int.toNat_of_nonneg h0]
    refine ⟨_, exec_setHits_of_field hi hf h0 h4, ?_, ?_⟩
    · rw [exec_getHits_of_field (effect.idle_eq.trans hi) hf, stored]
      rfl
    · rcases named with ⟨rfl, rfl⟩ | ⟨rfl, rfl⟩
      · exact ⟨effect.get_kept (by simp), effect.get_kept (by simp),
          fun _ => ⟨effect.get_kept (by simp), effect.keptOutside⟩, by omega⟩
      · exact ⟨effect.get_kept (by simp), effect.get_kept (by simp), by omega,
          fun _ => ⟨effect.get_kept (by simp), effect.keptOutside⟩⟩
  · intro k v operator
    obtain ⟨f, hf, named⟩ : ∃ f, hitOpField k = some f ∧ ((k = 1 ∧ f = .hitop1) ∨ (k = 2 ∧ f = .hitop2)) := by
      rcases operator with rfl | rfl <;> exact ⟨_, rfl, by simp⟩
    have effect := setterEffect_hitOp hp hf v
    have stored : ((((s.put f v).ret none).get f : Nat) : Int) = v % 16 := by
      rw [effect.get_written (List.mem_singleton_self _), Int.toNat_of_nonneg (by omega)]
    refine ⟨_, exec_setHitOp_of_field hi hf, ?_, ?_⟩
    · rw [exec_getHitOp_of_field (effect.idle_eq.trans hi) hf, stored]
      rfl
    · rcases named with ⟨rfl, rfl⟩ | ⟨rfl, rfl⟩
      · exact ⟨effect.get_kept (by simp), effect.get_kept (by simp), fun _ => effect.get_kept (by simp), by omega⟩
      · exact ⟨effect.get_kept (by simp), effect.get_kept (by simp), by omega, fun _ => effect.get_kept (by simp)⟩

/-! ### SET_DELREL and GET_DELREL -/

theorem exec_setDelrel_of_field (hi : s.idle = true) (hf : delrelField k = some f) :
    exec (.setDelrel k v) s = .next ((s.put f v).ret none) := by
  rw [exec, execSetDelrel, perform_of_idle hi, hf, putOrNothing]

theorem exec_setDelrel_of_none (hi : s.idle = true) (hf : delrelField k = none) :
    exec (.setDelrel k v) s = .next (s.ret none) := by
  rw [exec, execSetDelrel, perform_of_idle hi, hf, putOrNothing]

theorem exec_getDelrel_of_field (hi : s.idle = true) (hf : delrelField k = some f) :
    exec (.getDelrel k) s = .next (s.ret (some (.num (s.get f)))) := by
  rw [exec, execGetDelrel, perform_of_idle hi, hf, getOrZero]

theorem exec_getDelrel_of_none (hi : s.idle = true) (hf : delrelField k = none) :
    exec (.getDelrel k) s = .next (s.ret (some (.num 0))) := by
  rw [exec, execGetDelrel, perform_of_idle hi, hf, getOrZero]

/-- A delay is stored mod 64: the field is six bits wide. -/
theorem setterEffect_delrel (hp : s.par.ok = true) (hf : delrelField k = some f) (v : Int) :
    SetterEffect [(f, (v % 64).toNat)] s ((s.put f v).ret none) := by
  rcases delrelField_eq_some_iff.1 hf with ⟨-, rfl⟩ | ⟨-, rfl⟩ | ⟨-, rfl⟩ <;> exact setterEffect_one hp _ v rfl

/-- Settles O25. -/
theorem setDelrelStoresModulo64 : Obligations.SetDelrelStoresModulo64 := by
  intro s k v hi hp
  refine ⟨fun f named => ?_, fun h1 h2 h3 => exec_setDelrel_of_none hi (delrelField_eq_none h1 h2 h3)⟩
  have hf : delrelField k = some f := delrelField_eq_some_iff.2 named
  exact ⟨_, exec_setDelrel_of_field hi hf, setterEffect_delrel hp hf v⟩

/-- Settles O26. -/
theorem getDelrelReadsField : Obligations.GetDelrelReadsField := by
  intro s hi
  exact ⟨exec_getDelrel_of_field hi rfl, exec_getDelrel_of_field hi rfl, exec_getDelrel_of_field hi rfl,
    fun k h1 h2 h3 => exec_getDelrel_of_none hi (delrelField_eq_none h1 h2 h3)⟩

/-! ### The laws of the relative delays -/

theorem exists_delrelField (h : k = 1 ∨ k = 2 ∨ k = 3) : ∃ f, delrelField k = some f := by
  rcases h with rfl | rfl | rfl <;> exact ⟨_, rfl⟩

theorem delrelField_injective {j : Int} {g : Field} (hf : delrelField k = some f) (hg : delrelField j = some g)
    (hjk : j ≠ k) : g ≠ f := by
  have hf' := delrelField_eq_some_iff.1 hf
  have hg' := delrelField_eq_some_iff.1 hg
  grind

/-- The three fields share a register and lie in its bits 25 to 8 (10_state.md R28 (c)). -/
theorem delrel_place {p : Params} (hp : p.ok = true) (hf : delrelField k = some f) :
    (p.map.desc f).reg = p.map.delrel1.reg ∧ 8 ≤ (p.map.desc f).lsb ∧
      (p.map.desc f).lsb + (p.map.desc f).width ≤ 26 := by
  have packed : p.map.delrelPacked = true := by
    have admitted := admitted_of_ok hp
    simp only [FieldMap.admitted, Bool.and_eq_true] at admitted
    exact admitted.1.1.2
  simp only [FieldMap.delrelPacked, Bool.and_eq_true, beq_iff_eq] at packed
  obtain ⟨⟨⟨⟨reg12, reg23⟩, lsb1⟩, lsb2⟩, lsb3⟩ := packed
  have width := desc_width hp f
  rcases delrelField_eq_some_iff.1 hf with ⟨-, rfl⟩ | ⟨-, rfl⟩ | ⟨-, rfl⟩ <;>
    simp only [FieldMap.desc, Field.width] at width ⊢
  · exact ⟨trivial, by omega, by omega⟩
  · exact ⟨reg12.symm, by omega, by omega⟩
  · exact ⟨(reg12.trans reg23).symm, by omega, by omega⟩

/-- Writes of two named fields commute on a canonical image. -/
theorem put_comm (hp : s.par.ok = true) (hc : s.cfg.wf = true) {g : Field} (hfg : f ≠ g) (v u : Int) :
    (s.put f v).put g u = (s.put g u).put f v := by
  have image := fieldSet_comm hc (desc_ok hp f) (desc_ok hp g) (desc_disjoint hp hfg) u v
  exact congrArg (fun c => { s with cfg := c }) image

/-- Settles O27: the effect of one setter for the getters, the bits outside the packed fields by the place of the fields, and the
commutation by that of the field engine. -/
theorem delrelLaws : Obligations.DelrelLaws := by
  refine ⟨fun s k v hi hp hk => ?_, fun s k j u v hi hp hc hk hj hjk => ?_, fun s hi hp => ?_⟩
  · obtain ⟨f, hf⟩ := exists_delrelField hk
    obtain ⟨sameReg, lo, hi26⟩ := delrel_place hp hf
    have effect := setterEffect_delrel hp hf v
    have hi' : ((s.put f v).ret none).idle = true := effect.idle_eq.trans hi
    refine ⟨_, exec_setDelrel_of_field hi hf, ?_, fun j hj hjk => ?_, fun i outside => ?_, fun r other => ?_⟩
    · have stored : ((((s.put f v).ret none).get f : Nat) : Int) = v % 64 := by
        rw [effect.get_written (List.mem_singleton_self _), Int.toNat_of_nonneg (by omega)]
      rw [exec_getDelrel_of_field hi' hf, stored]
      rfl
    · obtain ⟨g, hg⟩ := exists_delrelField hj
      have kept : ((s.put f v).ret none).get g = s.get g :=
        effect.get_kept (by simpa using delrelField_injective hf hg hjk)
      refine ⟨s.get g, exec_getDelrel_of_field hi hg, ?_⟩
      rw [exec_getDelrel_of_field hi' hg, kept]
      rfl
    · refine getLsbD_reg_fieldSet_outside _ _ (desc_ok hp f) v (by omega) (Bool.eq_false_iff.2 fun hcov => ?_)
      obtain ⟨-, inLo, inHi⟩ := (covers_iff _ _ _).1 hcov
      omega
    · exact reg_fieldSet_ne _ _ (desc_ok hp f) v (sameReg ▸ other)
  · obtain ⟨f, hf⟩ := exists_delrelField hk
    obtain ⟨g, hg⟩ := exists_delrelField hj
    have hfg : f ≠ g := (delrelField_injective hf hg hjk).symm
    refine ⟨_, _, ((s.put f v).put g u).ret none, exec_setDelrel_of_field hi hf,
      exec_setDelrel_of_field (s := (s.put f v).ret none) hi hg, exec_setDelrel_of_field hi hg, ?_⟩
    rw [exec_setDelrel_of_field (s := (s.put g u).ret none) hi hf, put_comm hp hc hfg]
    rfl
  · have effect : SetterEffect [(.delrel1, 3), (.delrel2, 10), (.delrel3, 60)] s
        ((((s.put .delrel1 3).put .delrel2 10).put .delrel3 60).ret none) :=
      setterEffect_three hp (by decide) (by decide) (by decide) 3 10 60 rfl rfl rfl
    exact ⟨_, _, _, exec_setDelrel_of_field hi rfl, exec_setDelrel_of_field (s := (s.put .delrel1 3).ret none) hi rfl,
      exec_setDelrel_of_field (s := ((s.put .delrel1 3).put .delrel2 10).ret none) hi rfl,
      effect.get_written (by simp), effect.get_written (by simp), effect.get_written (by simp)⟩

end Sys2Proof.Machine
end

section
/-! Edge sensitivity settled (44_edge_sensitivity.md R180 to R184). An operand code names an edge or none, a channel names its two
bits or none; a setting is its two bits, and reading them back gives the setting. -/

namespace Sys2Proof.Machine

variable {s : State} {ch e : Int} {edge : Edge} {bit flag : Field}

/-! ### The code maps -/

theorem edgeOfCode_eq_some_iff :
    edgeOfCode e = some edge ↔ (e = 0 ∧ edge = .rising) ∨ (e = 1 ∧ edge = .falling) ∨ (e = 2 ∧ edge = .both) := by
  unfold edgeOfCode
  split_ifs <;> grind

theorem edgeOfCode_eq_none (h0 : e ≠ 0) (h1 : e ≠ 1) (h2 : e ≠ 2) : edgeOfCode e = none := by
  rw [edgeOfCode, if_neg h0, if_neg h1, if_neg h2]

theorem stopFields_eq_some_iff : stopFields ch = some (bit, flag) ↔
    (ch = 1 ∧ bit = .stop1Edge ∧ flag = .stop1Both) ∨ (ch = 2 ∧ bit = .stop2Edge ∧ flag = .stop2Both) := by
  unfold stopFields
  split_ifs <;> grind

theorem stopFields_eq_none (h1 : ch ≠ 1) (h2 : ch ≠ 2) : stopFields ch = none := by
  rw [stopFields, if_neg h1, if_neg h2]

/-- A setting's two bits read back as the setting. -/
theorem edgeOfBits_edgeBits (edge : Edge) : edgeOfBits (edgeBits edge).1.toNat (edgeBits edge).2.toNat = edge := by
  cases edge <;> rfl

/-- No setting has the edge bit together with the both flag (R180). -/
theorem edgeBits_not_both (edge : Edge) : ¬ ((edgeBits edge).1.toNat = 1 ∧ (edgeBits edge).2.toNat = 1) := by
  cases edge <;> decide

/-! ### The start edge -/

theorem exec_setStartEdge_rising (hi : s.idle = true) : exec (.setStartEdge 0) s = .next ((s.put .startEdge 0).ret none) :=
  perform_of_idle hi

theorem exec_setStartEdge_falling (hi : s.idle = true) : exec (.setStartEdge 1) s = .next ((s.put .startEdge 1).ret none) :=
  perform_of_idle hi

theorem exec_setStartEdge_other (hi : s.idle = true) (h0 : e ≠ 0) (h1 : e ≠ 1) :
    exec (.setStartEdge e) s = .next (s.ret none) := by
  rw [exec, execSetStartEdge, perform_of_idle hi]
  by_cases h2 : e = 2
  · subst h2; rfl
  · rw [edgeOfCode_eq_none h0 h1 h2]

/-- Settles O18. -/
theorem setStartEdgeIgnoresBoth : Obligations.SetStartEdgeIgnoresBoth := by
  intro s hi hp
  exact ⟨⟨_, exec_setStartEdge_rising hi, setterEffect_one hp .startEdge 0 rfl⟩,
    ⟨_, exec_setStartEdge_falling hi, setterEffect_one hp .startEdge 1 rfl⟩,
    fun e => exec_setStartEdge_other hi⟩

/-! ### The stop edges -/

theorem exec_setStopEdge_of_edge (hi : s.idle = true) (hf : stopFields ch = some (bit, flag))
    (he : edgeOfCode e = some edge) :
    exec (.setStopEdge ch e) s = .next (((s.put bit (edgeBits edge).1).put flag (edgeBits edge).2).ret none) := by
  rw [exec, execSetStopEdge, perform_of_idle hi, hf, he]

theorem exec_setStopEdge_of_outside (hi : s.idle = true) (h : (ch ≠ 1 ∧ ch ≠ 2) ∨ (e ≠ 0 ∧ e ≠ 1 ∧ e ≠ 2)) :
    exec (.setStopEdge ch e) s = .next (s.ret none) := by
  rw [exec, execSetStopEdge, perform_of_idle hi]
  rcases h with ⟨h1, h2⟩ | ⟨h0, h1, h2⟩
  · rw [stopFields_eq_none h1 h2]
  · rw [edgeOfCode_eq_none h0 h1 h2]
    cases stopFields ch <;> rfl

/-- The edge bit and the both flag are two fields of one bit each. -/
theorem setterEffect_stopEdge (hp : s.par.ok = true) (hf : stopFields ch = some (bit, flag)) (edge : Edge) :
    SetterEffect [(bit, (edgeBits edge).1.toNat), (flag, (edgeBits edge).2.toNat)] s
      (((s.put bit (edgeBits edge).1).put flag (edgeBits edge).2).ret none) := by
  have fits : (edgeBits edge).1.toNat = ((edgeBits edge).1 % 2).toNat ∧
      (edgeBits edge).2.toNat = ((edgeBits edge).2 % 2).toNat := by
    cases edge <;> decide
  rcases stopFields_eq_some_iff.1 hf with ⟨-, rfl, rfl⟩ | ⟨-, rfl, rfl⟩ <;>
    exact setterEffect_two hp (by decide) _ _ fits.1 fits.2

/-- Settles O19: each of the three codes is that of an edge, whose two bits are written. -/
theorem setStopEdgeWritesBothBits : Obligations.SetStopEdgeWritesBothBits := by
  intro s ch hi hp
  refine ⟨fun bit flag named => ?_, fun e => exec_setStopEdge_of_outside hi⟩
  have hf : stopFields ch = some (bit, flag) := stopFields_eq_some_iff.2 named
  exact ⟨⟨_, exec_setStopEdge_of_edge hi hf rfl, setterEffect_stopEdge hp hf .rising⟩,
    ⟨_, exec_setStopEdge_of_edge hi hf rfl, setterEffect_stopEdge hp hf .falling⟩,
    ⟨_, exec_setStopEdge_of_edge hi hf rfl, setterEffect_stopEdge hp hf .both⟩⟩

theorem exec_getStopEdge_of_fields (hi : s.idle = true) (hf : stopFields ch = some (bit, flag)) :
    exec (.getStopEdge ch) s = .next (s.ret (some (.edge (edgeOfBits (s.get bit) (s.get flag))))) := by
  rw [exec, execGetStopEdge, perform_of_idle hi, hf]

theorem exec_getStopEdge_of_none (hi : s.idle = true) (hf : stopFields ch = none) :
    exec (.getStopEdge ch) s = .next (s.ret (some (.edge .rising))) := by
  rw [exec, execGetStopEdge, perform_of_idle hi, hf]

/-- Settles O20. -/
theorem edgeGettersReadTheBits : Obligations.EdgeGettersReadTheBits := by
  intro s hi
  refine ⟨perform_of_idle hi, fun ch bit flag named => ?_, fun ch h1 h2 => ?_⟩
  · exact exec_getStopEdge_of_fields hi (stopFields_eq_some_iff.2 named)
  · exact exec_getStopEdge_of_none hi (stopFields_eq_none h1 h2)

/-- Settles O21: the getter reads the two bits the setter has written. -/
theorem setStopEdgeThenGetStopEdge : Obligations.SetStopEdgeThenGetStopEdge := by
  intro s ch e edge hi hp channel code
  obtain ⟨bit, flag, hf⟩ : ∃ bit flag, stopFields ch = some (bit, flag) := by
    rcases channel with rfl | rfl <;> exact ⟨_, _, rfl⟩
  have effect := setterEffect_stopEdge hp hf edge
  have storedBit := effect.get_written List.mem_cons_self
  have storedFlag := effect.get_written (List.mem_cons_of_mem _ (List.mem_singleton_self _))
  refine ⟨_, exec_setStopEdge_of_edge hi hf (edgeOfCode_eq_some_iff.2 code), ?_⟩
  rw [exec_getStopEdge_of_fields (effect.idle_eq.trans hi) hf, storedBit, storedFlag, edgeOfBits_edgeBits]
  rfl

end Sys2Proof.Machine
end

section
/-! SET_OFFSET and GET_OFFSET settled (45_signed_offset.md R203, R204), and the signed reading of a pattern as that of a bit
vector, which CONVERT shares (00_scope.md R11). -/

namespace Sys2Proof.Machine

/-- The signed reading of a pattern is that of the bit vector (R11). -/
theorem signed_toNat {w : Nat} (hw : 1 ≤ w) (b : BitVec w) : signed w b.toNat = b.toInt := by
  have doubled : 2 ^ w = 2 * 2 ^ (w - 1) := by rw [← pow_succ', Nat.sub_add_cancel hw]
  rw [signed, BitVec.toInt_eq_toNat_cond]
  by_cases positive : b.toNat < 2 ^ (w - 1)
  · rw [if_pos positive, if_pos (by omega)]
  · rw [if_neg positive, if_neg (by omega)]
    push_cast
    rfl

variable {s : State} {x : Int}

/-! ### SET_OFFSET -/

theorem encodeOffset_above (h : 15 < x) : encodeOffset x = ⟨twos 5 (x - 20), 0, 1⟩ := by
  rw [encodeOffset, if_pos h]

theorem encodeOffset_below (h : x < -16) : encodeOffset x = ⟨twos 5 (x + 20), 1, 0⟩ := by
  rw [encodeOffset, if_neg (by omega), if_pos h]

theorem encodeOffset_inside (hlo : -16 ≤ x) (hhi : x ≤ 15) : encodeOffset x = ⟨twos 5 x, 0, 0⟩ := by
  rw [encodeOffset, if_neg (by omega), if_neg (by omega)]

theorem exec_setOffset_of_outside (hi : s.idle = true) (h : x < -36 ∨ 35 < x) :
    exec (.setOffset x) s = .next (s.ret none) := by
  rw [exec, execSetOffset, perform_of_idle hi, if_neg (by omega)]

/-- An accepted offset is stored as its code. -/
theorem setOffset_effect (hi : s.idle = true) (hp : s.par.ok = true) (hlo : -36 ≤ x) (hhi : x ≤ 35) :
    ∃ t, exec (.setOffset x) s = .next t ∧ SetterEffect [(.offs, (encodeOffset x).core),
      (.offsNeg20, (encodeOffset x).neg20), (.offsPos20, (encodeOffset x).pos20)] s t := by
  obtain ⟨core, neg, pos⟩ := encodeOffset_fits x
  exact ⟨_, exec_setOffset_of_idle hi hlo hhi, setterEffect_putOffset hp core neg pos⟩

/-- Settles O22: the code of each of the three ranges. -/
theorem setOffsetWritesThreeFields : Obligations.SetOffsetWritesThreeFields := by
  intro s x hi hp
  refine ⟨fun above hhi => ?_, fun hlo below => ?_, fun hlo hhi => ?_, exec_setOffset_of_outside hi⟩
  · have effect := setOffset_effect hi hp (x := x) (by omega) hhi
    rwa [encodeOffset_above above] at effect
  · have effect := setOffset_effect hi hp (x := x) hlo (by omega)
    rwa [encodeOffset_below below] at effect
  · have effect := setOffset_effect hi hp (x := x) (by omega) (by omega)
    rwa [encodeOffset_inside hlo hhi] at effect

/-! ### GET_OFFSET -/

theorem exec_getOffset_of_both_flags (hi : s.idle = true) (hneg : s.get .offsNeg20 = 1) (hpos : s.get .offsPos20 = 1) :
    exec .getOffset s = .next (s.drawn.ret (some (.num (Config.freeOffset s.draws)))) := by
  rw [exec, execGetOffset, perform_of_idle hi, hneg, hpos]
  rfl

/-- The core's five bits as a bit vector. -/
theorem signed_core (hp : s.par.ok = true) : signed 5 (s.get .offs) = (BitVec.ofNat 5 (s.get .offs)).toInt := by
  have fits : s.get .offs < 2 ^ 5 := get_lt hp .offs
  rw [← signed_toNat (by decide), BitVec.toNat_ofNat, Nat.mod_eq_of_lt fits]

/-- Settles O23: the decoder's four cases. -/
theorem getOffsetDecodesCoreAndFlags : Obligations.GetOffsetDecodesCoreAndFlags := by
  intro s hi hp
  rw [← signed_core hp]
  refine ⟨fun hneg hpos => ?_, fun hneg hpos => ?_, fun hneg hpos => ?_, fun hneg hpos => ?_⟩
  · exact exec_getOffset_of_decoded hi (by rw [hneg, hpos, decodeOffset_noFlag])
  · exact exec_getOffset_of_decoded hi (by rw [hneg, hpos, decodeOffset_pos20])
  · exact exec_getOffset_of_decoded hi (by rw [hneg, hpos, decodeOffset_neg20])
  · exact ⟨_, exec_getOffset_of_both_flags hi hneg hpos⟩

end Sys2Proof.Machine
end

section
/-! CONVERT settled (48_status_and_result_decode.md R275 to R277). The raw result and its negative are the signed readings of their
patterns, so linearity, oddness and the bound are those of multiplication by n / 2^18. -/

namespace Sys2Proof.Machine

variable {s : State} {raw : Int}

theorem signedRaw_eq_toInt (raw : Int) : signedRaw raw = (BitVec.ofInt 32 raw).toInt := by
  rw [← signed_toNat (by decide), BitVec.toNat_ofInt]
  rfl

theorem exec_convert_of_idle (hi : s.idle = true) (raw : Int) :
    exec (.convert raw) s = .next (s.ret (some (.micros ((signedRaw raw : Rat) * s.conv)))) := perform_of_idle hi

/-- Settles O41. -/
theorem convertMultipliesSignedRaw : Obligations.ConvertMultipliesSignedRaw := by
  intro s raw hi
  rw [← signedRaw_eq_toInt]
  exact exec_convert_of_idle hi raw

theorem signedRaw_of_range (hlo : -2 ^ 31 ≤ raw) (hhi : raw < 2 ^ 31) : signedRaw raw = raw :=
  signed_twos (by decide) hlo hhi

/-- The pattern of the negative is the two's complement of the pattern. -/
theorem signedRaw_two_pow_sub (hlo : 0 < raw) (hhi : raw < 2 ^ 31) : signedRaw (2 ^ 32 - raw) = -raw := by
  have pattern : twos 32 (2 ^ 32 - raw) = twos 32 (-raw) := by
    rw [twos, twos, sub_eq_add_neg, Int.add_emod_left]
  rw [signedRaw, pattern]
  exact signedRaw_of_range (by omega) (by omega)

/-- At most 4 * 2^31 / 2^18 microseconds (R277 (c)). -/
theorem abs_convert_le {n : Nat} (hn : n ≤ 4) (hlo : 0 < raw) (hhi : raw < 2 ^ 31) :
    |(n : Rat) * ((raw : Rat) / 2 ^ 18)| ≤ 32768 := by
  have bound : (n : Rat) * raw ≤ 4 * 2 ^ 31 := by
    have hn' : (n : Rat) ≤ 4 := by exact_mod_cast hn
    have hlo' : (0 : Rat) ≤ raw := by exact_mod_cast hlo.le
    have hhi' : (raw : Rat) ≤ 2 ^ 31 := by exact_mod_cast hhi.le
    gcongr
  have nonneg : (0 : Rat) ≤ n * ((raw : Rat) / 2 ^ 18) := by
    have hlo' : (0 : Rat) ≤ raw := by exact_mod_cast hlo.le
    positivity
  rw [abs_of_nonneg nonneg]
  linarith

/-- Settles O42: the factor is that of the pre-divider, and the two raw values are negatives of each other. -/
theorem convertIsLinearOddBounded : Obligations.ConvertIsLinearOddBounded := by
  intro s raw hi _ coherent hlo hhi
  have getPrediv := exec_getPrediv_of_idle hi
  rw [ConvCoherent, convOf_eq_div, Int.cast_natCast] at coherent
  have divider := predivValue_cases (s.get .prediv)
  generalize predivValue (s.get .prediv) = n at getPrediv coherent divider
  refine ⟨n, n * ((raw : Rat) / 2 ^ 18), -(n * ((raw : Rat) / 2 ^ 18)), divider, getPrediv, ?_, ?_, rfl, rfl,
    abs_convert_le (by omega) hlo hhi, n * raw, ?_⟩
  · have value : (n : Rat) * ((raw : Rat) / 2 ^ 18) = (signedRaw raw : Rat) * s.conv := by
      rw [signedRaw_of_range (by omega) hhi, coherent]
      ring
    rw [value]
    exact exec_convert_of_idle hi raw
  · have value : -((n : Rat) * ((raw : Rat) / 2 ^ 18)) = (signedRaw (2 ^ 32 - raw) : Rat) * s.conv := by
      rw [signedRaw_two_pow_sub hlo hhi, coherent]
      push_cast
      ring
    rw [value]
    exact exec_convert_of_idle hi _
  · push_cast
    ring

end Sys2Proof.Machine
end

section
/-! The framer's remaining operations settled (47_transactions.md R232 to R235, R240, R244; 30_encoding.md R87): while every transfer
returns at once, a command, a register write and a status read are each one frame; the wire rows share these operations. -/

namespace Sys2Proof.Machine

variable {s : State}

theorem prompt_mono {m n : Nat} (h : prompt n s) (hmn : m ≤ n) : prompt m s := fun k hk => h k (hk.trans_le hmn)

/-! ### Commands -/

theorem sendCommand_of_prompt (hi : s.idle = true) (hp : prompt 1 s) (op : Byte) :
    sendCommand op s = afterFrames s (frameBytes op []) := by
  rw [sendCommand, transact_of_prompt hi .discard (frame op []) (frame_releases op []) hp]
  rfl

/-- Settles O28. -/
theorem commandsSendOneByte : Obligations.CommandsSendOneByte := by
  intro s hi hp
  constructor
  · exact (perform_of_idle hi).trans (congrArg _ (sendCommand_of_prompt hi hp 0x50#8))
  · exact (perform_of_idle hi).trans (congrArg _ (sendCommand_of_prompt hi hp 0x70#8))

/-! ### Register writes -/

theorem sendRegister_of_prompt (hi : s.idle = true) (hp : prompt 5 s) (r : Reg) :
    sendRegister r s = afterFrames s (writeBytes s r) := by
  rw [sendRegister, transact_of_prompt hi .discard (writeFrame s r) (frame_releases _ _) hp, bytesOf_writeFrame]
  rfl

theorem regIndex_val (r : Reg) : regIndex r.val = some r := by
  rw [regIndex, dif_pos (by omega)]
  rfl

theorem exec_writeReg_of_index (hi : s.idle = true) (r : Reg) : exec (.writeReg r.val) s = .next (sendRegister r s) := by
  rw [exec, execWriteReg, perform_of_idle hi, regIndex_val]

theorem exec_writeReg_of_outside (hi : s.idle = true) {r : Int} (h : r < 0 ∨ 6 < r) :
    exec (.writeReg r) s = .next (s.ret none) := by
  rw [exec, execWriteReg, perform_of_idle hi, regIndex, dif_neg (by omega)]

/-- Settles O29. -/
theorem writeRegSendsImageRegister : Obligations.WriteRegSendsImageRegister := by
  intro s hi
  refine ⟨fun r hp => ?_, fun r => exec_writeReg_of_outside hi⟩
  rw [exec_writeReg_of_index hi, sendRegister_of_prompt hi hp]

/-! ### The status read -/

theorem ofNat_be_two (w : Nat) (b₁ b₂ : Byte) :
    BitVec.ofNat w (be [b₁, b₂]) = (b₁.setWidth w <<< 8) ||| b₂.setWidth w := by
  rw [← ofNat_be_one, ← ofNat_be_concat, List.singleton_append]

/-- A status read stores the two payload answers, the first the more significant, and answers them (R240). -/
theorem fetchStatus_of_prompt (hi : s.idle = true) (hp : prompt 3 s) :
    fetchStatus s = { afterFrames s (frameBytes Config.opStatus [s.par.dummy, s.par.dummy]) with
      stat := ((answer s 1).setWidth 16 <<< 8) ||| (answer s 2).setWidth 16,
      q := some (.word16 (((answer s 1).setWidth 16 <<< 8) ||| (answer s 2).setWidth 16)) } := by
  rw [fetchStatus, transact_readFrame_of_prompt hi .status _ (by decide) hp, ← ofNat_be_two]
  rfl

/-- Settles O32. -/
theorem readStatusOverwritesSnapshot : Obligations.ReadStatusOverwritesSnapshot := by
  intro s hi hp
  exact (perform_of_idle hi).trans (congrArg _ (fetchStatus_of_prompt hi hp))

/-! ### The wire rows -/

theorem exec_wireWrite (r : Reg) : exec (wireWrite r) s = perform s (sendRegister r s) := by
  match r with
  | 0 | 1 | 2 | 3 | 4 | 5 | 6 => rfl

theorem exec_wireRead (i : ResultReg) : exec (wireRead i) s = perform s (fetchResult i s) := by
  match i with
  | 0 | 1 | 2 | 3 => rfl

/-- Settles O34: each row is the operation that emits its frame. -/
theorem wireOpcodesSendOneFrame : Obligations.WireOpcodesSendOneFrame := by
  intro s hi hp
  have one := prompt_mono hp (show 1 ≤ 5 by decide)
  have two := prompt_mono hp (show 2 ≤ 5 by decide)
  have three := prompt_mono hp (show 3 ≤ 5 by decide)
  refine ⟨?_, ?_, fun r => ?_, fun i => ?_, ?_, ?_⟩
  · exact (perform_of_idle hi).trans (congrArg _ (sendCommand_of_prompt hi one 0x50#8))
  · exact (perform_of_idle hi).trans (congrArg _ (sendCommand_of_prompt hi one 0x70#8))
  · rw [exec_wireWrite, perform_of_idle hi, sendRegister_of_prompt hi hp]
  · rw [exec_wireRead, perform_of_idle hi, fetchResult_of_prompt hi hp]
    rfl
  · exact (perform_of_idle hi).trans (congrArg _ (fetchStatus_of_prompt hi three))
  · exact (perform_of_idle hi).trans (congrArg _ (fetchReg1Hi_of_prompt hi two))

/-! ### SNAPSHOT -/

/-- Settles O35: the seven indices in order. -/
theorem snapshotShowsImage : Obligations.SnapshotShowsImage := by
  intro s hi
  have registers : List.finRange 7 = [0, 1, 2, 3, 4, 5, 6] := by decide
  rw [exec, execSnapshot, perform_of_idle hi, registers]
  rfl

end Sys2Proof.Machine
end

section
/-! Stalls and delays settled (70_reset_and_hazards.md R347). A transfer that never returns leaves the operation suspended where it
is; one that returns later leaves it suspended for a step, after which it goes on as if the delay had not been in the script. -/

namespace Sys2Proof.Machine

variable {s t : State} {fin : Finish} {x : Xfer} {xs : List Xfer} {got : List Byte}

theorem transfer_cons_of_prompt (h : prompt 1 s) :
    transfer fin (x :: xs) got s = transfer fin xs (collect got x (answer s 0)) (afterXfer s x) := by
  rcases transfer_cons fin x xs got s with ⟨-, returned⟩ | ⟨stuck, -⟩
  · exact returned
  · exact absurd h stuck

theorem transfer_of_never_head {rest : List BusReply} (h : s.bus = .never :: rest) :
    transfer fin (x :: xs) got s = (s.select x.seq).suspend ⟨x :: xs, got, fin⟩ := by
  have waits : busXfer (s.select x.seq) x = .waits (s.select x.seq) := by rw [busXfer, State.select_bus, h]
  rw [transfer, waits]

theorem transfer_of_notYet_head {rest : List BusReply} (h : s.bus = .notYet :: rest) :
    transfer fin (x :: xs) got s = (s.nextReply.select x.seq).suspend ⟨x :: xs, got, fin⟩ := by
  have waits : busXfer (s.select x.seq) x = .waits (s.select x.seq).nextReply := by rw [busXfer, State.select_bus, h]
  rw [transfer, waits]
  rfl

/-- A suspended operation is taken up at the awaited transfer: selecting the chip again changes nothing. -/
theorem step_suspended (hj : s.job = none) :
    step ((s.select x.seq).suspend ⟨x :: xs, got, fin⟩) = .next (transfer fin (x :: xs) got s) := by
  have same : ((s.select x.seq).suspend ⟨x :: xs, got, fin⟩).unsuspend = s.select x.seq := by
    rw [State.unsuspend, State.suspend, State.select, hj]
  rw [step, State.suspend_job]
  dsimp only
  rw [resume, same]
  rfl

/-! ### A transfer that never returns -/

/-- The state in which transfer k of `xs`, begun in `s`, is awaited and never returns: the transfers before it are on the wire and
no local state has changed. -/
structure StalledAt (s : State) (xs : List Xfer) (k : Nat) (u : State) : Prop where
  never : u.bus.head? = some .never
  job : u.job = none
  trace : u.trace = s.trace ++ events s 0 ((bytesOf xs).take k)
  cfg : u.cfg = s.cfg
  conv : u.conv = s.conv
  stat : u.stat = s.stat

/-- The first transfer returns at once, and the operation is stalled among the rest. -/
theorem StalledAt.cons {k : Nat} {u : State} (h : StalledAt (afterXfer s x) xs k u) : StalledAt s (x :: xs) (k + 1) u where
  never := h.never
  job := h.job
  trace := by
    rw [h.trace, events_afterXfer, afterXfer_trace]
    simp [events]
  cfg := by simpa using h.cfg
  conv := by simpa using h.conv
  stat := by simpa using h.stat

/-- An operation whose transfer k never returns is suspended there. -/
theorem transfer_of_never (fin : Finish) (xs : List Xfer) (got : List Byte) (s : State) (k : Nat) (hj : s.job = none)
    (hp : prompt k s) (hb : s.bus[k]? = some .never) (hk : k < xs.length) :
    ∃ (u : State) (x : Xfer) (rest : List Xfer) (got' : List Byte), StalledAt s xs k u ∧ xs[k]? = some x ∧
      transfer fin xs got s = (u.select x.seq).suspend ⟨x :: rest, got', fin⟩ := by
  induction k generalizing xs got s with
  | zero =>
    obtain ⟨x, xs, rfl⟩ := List.exists_cons_of_length_pos hk
    have head : s.bus.head? = some .never := by rwa [List.head?_eq_getElem?]
    obtain ⟨rest, hbus⟩ : ∃ rest, s.bus = .never :: rest := List.head?_eq_some_iff.1 head
    exact ⟨s, x, xs, got, ⟨head, hj, by simp [events], rfl, rfl, rfl⟩, rfl, transfer_of_never_head hbus⟩
  | succ k ih =>
    obtain ⟨x, xs, rfl⟩ := List.exists_cons_of_length_pos (Nat.zero_lt_of_lt hk)
    obtain ⟨u, y, rest, got', stalled, hy, suspended⟩ :=
      ih xs (collect got x (answer s 0)) (afterXfer s x) (by simpa using hj) (prompt_afterXfer hp x)
        (by rwa [afterXfer_bus, List.getElem?_tail]) (by simpa using hk)
    refine ⟨u, y, rest, got', stalled.cons, by simpa using hy, ?_⟩
    rw [transfer_cons_of_prompt (prompt_head hp), suspended]

/-- `SEQ` of the k-th payload byte. -/
theorem payloadXfers_seq {j k : Nat} {ps : List Byte} (h : (payloadXfers j ps)[k]? = some x) :
    x.seq = BitVec.ofNat 3 (j + k) := by
  induction ps generalizing j k with
  | nil => simp [payloadXfers] at h
  | cons p ps ih =>
    cases k with
    | zero =>
      obtain rfl := by simpa [payloadXfers] using h
      rfl
    | succ k =>
      rw [ih (j := j + 1) (k := k) (by simpa [payloadXfers] using h)]
      congr 1
      omega

/-- `SEQ` is the index of the byte in its frame (R230). -/
theorem frame_seq {op : Byte} {ps : List Byte} {k : Nat} (h : (frame op ps)[k]? = some x) : x.seq = BitVec.ofNat 3 k := by
  cases k with
  | zero =>
    obtain rfl := by simpa [frame] using h
    rfl
  | succ k =>
    rw [payloadXfers_seq (j := 1) (k := k) (by simpa [frame] using h), Nat.add_comm]

theorem events_ret (v : Option Value) (k : Nat) (bs : List (Byte × Bool)) : events (s.ret v) k bs = events s k bs := by
  induction bs generalizing k with
  | nil => rfl
  | cons b bs ih =>
    rw [events, events, ih]
    rfl

/-- Settles O38: the frame is suspended at its k-th transfer, and the step that takes it up finds the same reply. -/
theorem stalledTransferKeepsItsPlace : Obligations.StalledTransferKeepsItsPlace := by
  intro s fin op ps k hi _ hk hp hb
  obtain ⟨hj, -⟩ := idle_iff.1 hi
  obtain ⟨u, x, rest, got, stalled, hx, suspended⟩ :=
    transfer_of_never fin (frame op ps) [] (s.ret none) k hj hp hb (by rw [length_frame]; omega)
  obtain ⟨bus, hbus⟩ := List.head?_eq_some_iff.1 stalled.never
  dsimp only
  rw [transact, suspended]
  refine ⟨rfl, frame_seq hx, ?_, by simp, stalled.cfg, stalled.conv, stalled.stat, ?_⟩
  · change u.trace = _
    rw [stalled.trace, events_ret]
    rfl
  · rw [step_suspended stalled.job, transfer_of_never_head hbus]

/-! ### Delays -/

theorem withoutDelays_withoutDelays (s : State) : withoutDelays (withoutDelays s) = withoutDelays s := by
  simp [withoutDelays]

/-! Taking the delays out of the script commutes with every update that does not use the script. -/

theorem withoutDelays_par (s : State) : (withoutDelays s).par = s.par := rfl
theorem get_withoutDelays (s : State) (f : Field) : (withoutDelays s).get f = s.get f := rfl

theorem finish_withoutDelays (fin : Finish) (got : List Byte) (s : State) :
    finish fin got (withoutDelays s) = withoutDelays (finish fin got s) := by
  cases fin <;> rfl

theorem putOrNothing_withoutDelays (s : State) (f : Option Field) (v : Int) :
    putOrNothing (withoutDelays s) f v = withoutDelays (putOrNothing s f v) := by
  cases f <;> rfl

theorem bus_of_prompt (h : prompt 1 s) : s.bus = [] ∨ ∃ b rest, s.bus = .byte b :: rest := by
  cases hb : s.bus with
  | nil => exact .inl rfl
  | cons r rest =>
    rcases h 0 Nat.one_pos with empty | ⟨b, byte⟩
    · simp [hb] at empty
    · obtain rfl : r = .byte b := by simpa [hb] using byte
      exact .inr ⟨b, rest, rfl⟩

/-- A transfer that returns at once finds the same reply and leaves the same script behind, with the delays or without. -/
theorem afterXfer_withoutDelays (h : prompt 1 s) (x : Xfer) :
    prompt 1 (withoutDelays s) ∧ answer (withoutDelays s) 0 = answer s 0 ∧
      afterXfer (withoutDelays s) x = withoutDelays (afterXfer s x) := by
  have head : (withoutDelays s).bus[0]? = s.bus[0]? ∧
      (withoutDelays s).bus.tail = s.bus.tail.filter fun r => r != .notYet := by
    rcases bus_of_prompt h with hb | ⟨b, rest, hb⟩ <;> simp [withoutDelays, hb]
  obtain ⟨head, tail⟩ := head
  have same : answer (withoutDelays s) 0 = answer s 0 := by
    rw [answer, answer, head]
    rfl
  have script : afterXfer (withoutDelays s) x = { afterXfer s x with bus := (withoutDelays s).bus.tail } := by
    rw [afterXfer, afterXfer, same]
    dsimp only
    split <;> rfl
  refine ⟨fun k hk => ?_, same, ?_⟩
  · obtain rfl : k = 0 := by omega
    rw [head]
    exact h 0 Nat.one_pos
  · rw [script, tail, withoutDelays, afterXfer_bus]

theorem run_succ (h : step s = .next t) (k : Nat) : run (k + 1) s = run k t := by
  have core_step : Sys2Proof.core.step s = .next t := h
  simp only [run, Host.Core.run, core_step]
  rfl

/-- The transfers of an operation that ends at once without the delays of the script end with them too, some steps later, in
the same state but for the script. -/
theorem transfer_with_delays (fin : Finish) (xs : List Xfer) (got : List Byte) (s : State) (hj : s.job = none)
    (ends : (transfer fin xs got (withoutDelays s)).job = none) :
    ∃ (t : State) (k : Nat), run k (transfer fin xs got s) = .next t ∧ t.job = none ∧
      withoutDelays t = withoutDelays (transfer fin xs got (withoutDelays s)) := by
  induction xs generalizing got s with
  | nil =>
    refine ⟨finish fin got s, 0, rfl, by rwa [finish_job], ?_⟩
    rw [transfer, finish_withoutDelays, withoutDelays_withoutDelays]
  | cons x xs ih =>
    have goes_on {s : State} (hj : s.job = none) (returns : prompt 1 s)
        (ends : (transfer fin (x :: xs) got (withoutDelays s)).job = none) :
        ∃ (t : State) (k : Nat), run k (transfer fin (x :: xs) got s) = .next t ∧ t.job = none ∧
          withoutDelays t = withoutDelays (transfer fin (x :: xs) got (withoutDelays s)) := by
      obtain ⟨returns', same, script⟩ := afterXfer_withoutDelays returns x
      rw [transfer_cons_of_prompt returns', same, script] at ends ⊢
      rw [transfer_cons_of_prompt returns]
      exact ih _ (afterXfer s x) (by rwa [afterXfer_job]) ends
    induction hb : s.bus generalizing s with
    | nil => exact goes_on hj (fun k _ => .inl (by rw [hb]; rfl)) ends
    | cons r rest later =>
      match r with
      | .byte b =>
        refine goes_on hj (fun k hk => .inr ⟨b, ?_⟩) ends
        obtain rfl : k = 0 := by omega
        rw [hb]
        rfl
      | .never =>
        have stuck : (withoutDelays s).bus = .never :: rest.filter fun r => r != .notYet := by
          rw [withoutDelays, hb]
          rfl
        rw [transfer_of_never_head stuck] at ends
        cases ends
      | .notYet =>
        have same : withoutDelays s.nextReply = withoutDelays s := by
          rw [withoutDelays, withoutDelays, State.nextReply, hb]
          rfl
        obtain ⟨t, k, reached, done, eq⟩ :=
          later s.nextReply hj (by rwa [same]) (by rw [State.nextReply_bus, hb, List.tail_cons])
        refine ⟨t, k + 1, ?_, done, same ▸ eq⟩
        rw [transfer_of_notYet_head hb, run_succ (step_suspended (s := s.nextReply) hj), reached]

/-- SET_MEAS_MODE(1) does not look at the script. -/
theorem enterMode1_withoutDelays (s : State) : enterMode1 (withoutDelays s) = withoutDelays (enterMode1 s) := by
  rw [enterMode1, enterMode1]
  by_cases quad : (s.put .mm 0).get .quad = 1
  · rw [if_pos quad, if_pos (by exact quad)]
    rfl
  · rw [if_neg quad, if_neg (by exact quad)]
    rfl

/-- An instruction that does not use the bus does not look at the script. -/
theorem exec_local_withoutDelays {i : Instr} (hb : usesBus i = false) (hi : s.idle = true) :
    ∃ t, exec i s = .next t ∧ exec i (withoutDelays s) = .next (withoutDelays t) := by
  have effects {t u : State} (runs : exec i s = perform s t) (runs' : exec i (withoutDelays s) = perform (withoutDelays s) u)
      (same : u = withoutDelays t) :
      ∃ t, exec i s = .next t ∧ exec i (withoutDelays s) = .next (withoutDelays t) :=
    ⟨t, runs.trans (perform_of_idle hi), runs'.trans (same ▸ perform_of_idle hi)⟩
  cases i
  case setQuad =>
    refine effects rfl rfl ?_
    by_cases mode2 : s.get .mm = 1
    · rw [if_pos mode2, if_pos (by exact mode2)]
      rfl
    · rw [if_neg mode2, if_neg (by exact mode2)]
      rfl
  case setMeasMode m =>
    refine effects rfl rfl ?_
    rw [enterMode1_withoutDelays]
    split_ifs <;> rfl
  case setPrediv n =>
    refine effects rfl rfl ?_
    rw [withoutDelays_par]
    cases predivCode s.par n <;> rfl
  case setHits ch n =>
    refine effects rfl rfl ?_
    rw [putOrNothing_withoutDelays]
    split <;> rfl
  case setHitOp k v => exact effects rfl rfl (congrArg (State.ret · none) (putOrNothing_withoutDelays s _ v))
  case setStartEdge e =>
    refine effects rfl rfl ?_
    split <;> rfl
  case setStopEdge ch e =>
    refine effects rfl rfl ?_
    split <;> rfl
  case setOffset x =>
    refine effects rfl rfl ?_
    split <;> rfl
  case getOffset =>
    refine effects rfl rfl ?_
    simp only [get_withoutDelays]
    split <;> rfl
  case setDelrel k v => exact effects rfl rfl (congrArg (State.ret · none) (putOrNothing_withoutDelays s _ v))
  case setSingle | setDouble | isSingle | isDouble | isQuad | getMeasMode | getPrediv | getHits | getHitOp | getStartEdge |
      getStopEdge | getDelrel | snapshot | statusPointer | statusHits1 | statusHits2 | statusTimeout | convert =>
    exact effects rfl rfl rfl
  all_goals cases hb

/-- Settles O39. -/
theorem delaysDoNotChangeTheOutcome : Obligations.DelaysDoNotChangeTheOutcome := by
  intro i s t' h ends
  have hi : s.idle = true := idle_of_exec_next (s := withoutDelays s) h
  obtain ⟨hj, -⟩ := idle_iff.1 hi
  cases hb : usesBus i with
  | false =>
    obtain ⟨t, runs, runs'⟩ := exec_local_withoutDelays hb hi
    obtain rfl : withoutDelays t = t' := by simpa [runs'] using h
    exact ⟨t, t, 0, runs, rfl, ends, (withoutDelays_withoutDelays t).symm⟩
  | true =>
    rcases exec_bus_cases hb with ⟨v, rejected⟩ | ⟨fin, xs, sends⟩
    · obtain rfl : (withoutDelays s).ret v = t' := by
        simpa [rejected, perform_of_idle (show (withoutDelays s).idle = true from hi)] using h
      exact ⟨s.ret v, s.ret v, 0, (rejected s).trans (perform_of_idle hi), rfl, hj,
        (withoutDelays_withoutDelays (s.ret v)).symm⟩
    · rw [sends.runs, sends.delayFree, perform_eq_next] at h
      obtain ⟨-, rfl⟩ := h
      obtain ⟨t, k, reached, done, eq⟩ := transfer_with_delays fin (xs s) [] (s.ret none) hj ends
      exact ⟨transact fin (xs s) s, t, k, (sends.runs s).trans (perform_of_idle hi), reached, done, eq⟩

end Sys2Proof.Machine
end

section
/-! The three statements about whole operations and whole steps settled: a rejected operand changes nothing (60_exceptions.md R301),
every step keeps the invariant (10_state.md R32, R33, R38, 47_transactions.md R245), and no step brings in a raw code that no
setter stores (93_implementation_defined.md U11). -/

namespace Sys2Proof.Machine

variable {i : Instr} {s t : State}

/-! ### Rejected operands -/

/-- Settles O51: what each operation with a list of operands does outside it. -/
theorem rejectionIsAllOrNothing : Obligations.RejectionIsAllOrNothing := by
  intro i s hi outside
  cases i <;> simp only [Instr.wf, Bool.and_eq_false_iff, Bool.or_eq_false_iff, beq_eq_false_iff_ne, decide_eq_false_iff_not,
    not_le, reduceCtorEq] at outside
  case setMeasMode m => exact exec_setMeasMode_other hi outside.1 outside.2
  case setPrediv n =>
    obtain ⟨⟨h1, h2⟩, h4⟩ := outside
    exact exec_setPrediv_of_none hi (predivCode_eq_none_iff.2 ⟨h1, h2, h4⟩)
  case setHits ch n => exact exec_setHits_of_outside hi (or_assoc.1 outside)
  case getHits ch => exact exec_getHits_of_none hi (hitsField_eq_none outside.1 outside.2)
  case setHitOp k v => exact exec_setHitOp_of_none hi (hitOpField_eq_none outside.1 outside.2)
  case getHitOp k => exact exec_getHitOp_of_none hi (hitOpField_eq_none outside.1 outside.2)
  case setStartEdge e => exact exec_setStartEdge_other hi outside.1 outside.2
  case setStopEdge ch e => exact exec_setStopEdge_of_outside hi (outside.imp_right and_assoc.1)
  case getStopEdge ch => exact exec_getStopEdge_of_none hi (stopFields_eq_none outside.1 outside.2)
  case setOffset x => exact exec_setOffset_of_outside hi outside
  case setDelrel k v =>
    obtain ⟨⟨h1, h2⟩, h3⟩ := outside
    exact exec_setDelrel_of_none hi (delrelField_eq_none h1 h2 h3)
  case getDelrel k =>
    obtain ⟨⟨h1, h2⟩, h3⟩ := outside
    exact exec_getDelrel_of_none hi (delrelField_eq_none h1 h2 h3)
  case writeReg r => exact exec_writeReg_of_outside hi outside
  case readResult k => exact exec_readResult_of_outside hi outside

/-! ### The framer's part of the invariant -/

/-- What the invariant says of the framer (10_state.md R32, R33, 47_transactions.md R245): between operations nothing is held,
inside one the bookkeeping of `JobHeld`; and the bytes sent and to be sent are whole frames. -/
structure FramerInv (s : State) : Prop where
  held : match s.job with
    | none => s.cs = false ∧ s.seq = 0
    | some j => JobHeld s j
  frames : wholeFrames 0 (sent s ++ toSend s) = true

theorem Inv.framer (inv : Inv s) : FramerInv s := ⟨inv.held, inv.frames⟩

/-- The framer's part reads the job, chip-select, `SEQ` and the trace only. -/
theorem FramerInv.congr (h : FramerInv s) (hj : t.job = s.job) (hc : t.cs = s.cs) (hq : t.seq = s.seq)
    (ht : t.trace = s.trace) : FramerInv t := by
  obtain ⟨held, frames⟩ := h
  refine ⟨?_, ?_⟩
  · simp only [hj, JobHeld, hc, hq]
    exact held
  · rw [sent, toSend, ht, hj]
    exact frames

/-- Between operations what was sent is whole frames. -/
theorem FramerInv.sent_whole (h : FramerInv s) (hj : s.job = none) : wholeFrames 0 (sent s) = true := by
  have frames := h.frames
  rwa [toSend, hj, List.append_nil] at frames

/-- Whole frames started between operations. -/
theorem FramerInv.transact (h : FramerInv s) (hj : s.job = none) {fin : Finish} {xs : List Xfer} (framed : WellFramed xs) :
    FramerInv (transact fin xs s) where
  held := transfer_held fin xs [] (s.ret none) hj framed.seqs framed.notEmpty fun x hx h0 =>
    absurd (framed.startsAtOpcode x hx) h0
  frames := by
    rw [Machine.transact, transfer_sent fin xs [] (s.ret none) hj]
    exact (wholeFrames_append 0 (sent s) (bytesOf xs) (h.sent_whole hj)).trans framed.whole

/-- The operation in progress taken up again. -/
theorem FramerInv.resume (h : FramerInv s) {j : Job} (hj : s.job = some j) : FramerInv (resume j s) := by
  obtain ⟨held, frames⟩ := h
  rw [hj] at held
  obtain ⟨-, seqs, x, xs, todo, -, got⟩ := held
  refine ⟨?_, ?_⟩
  · refine transfer_held j.fin j.todo j.got s.unsuspend rfl seqs (by simp [todo]) fun y hy => ?_
    obtain rfl : x = y := by simpa [todo] using hy
    exact got
  · rw [Machine.resume, transfer_sent j.fin j.todo j.got s.unsuspend rfl]
    rwa [toSend, hj] at frames

theorem framerInv_of_exec (hp : s.par.ok = true) (inv : FramerInv s) (h : exec i s = .next t) : FramerInv t := by
  obtain ⟨hj, hcs⟩ := idle_iff.1 (idle_of_exec_next h)
  cases hb : usesBus i with
  | false =>
    obtain ⟨trace, -, cs, seq, job⟩ := localOperationsAreSilentOnTheWire i s t hb h
    exact inv.congr (job.trans hj.symm) (cs.trans hcs.symm) seq trace
  | true =>
    rcases exec_bus_next hb h with ⟨v, rfl⟩ | ⟨fin, xs, sends, rfl⟩
    · exact inv.congr rfl rfl rfl rfl
    · exact inv.transact hj (sends.framed s hp)

/-! ### The invariant -/

/-- An instruction keeps the invariant: each part by the lemma about it. -/
theorem inv_of_exec (inv : Inv s) (h : exec i s = .next t) : Inv t where
  params := by rw [par_of_exec h]; exact inv.params
  canonical := wf_of_exec inv.canonical h
  resolution := resolutionLegal_of_exec inv.params h inv.resolution
  resetLegal := by rw [par_of_exec h]; exact inv.resetLegal
  factor := (convFollowsPredivider.2 s t i inv.params h).1 inv.factor
  held := (framerInv_of_exec inv.params inv.framer h).held
  frames := (framerInv_of_exec inv.params inv.framer h).frames

/-- Taking the host's next action, and the result port, are no part of the invariant. -/
theorem Inv.selectNothing (inv : Inv s) : Inv (selectNothing s) :=
  ⟨inv.params, inv.canonical, inv.resolution, inv.resetLegal, inv.factor, inv.held, inv.frames⟩

theorem Inv.taken (inv : Inv s) : Inv s.taken :=
  ⟨inv.params, inv.canonical, inv.resolution, inv.resetLegal, inv.factor, inv.held, inv.frames⟩

/-- The reset image is legal under the map in force, and nothing has been sent. -/
theorem Inv.resetEvent (inv : Inv s) : Inv (resetEvent s) :=
  ⟨inv.params, rfl, inv.resetLegal, inv.resetLegal, rfl, ⟨rfl, rfl⟩, rfl⟩

/-- The transfers of the operation in progress touch the framer's part only, and `STAT`. -/
theorem Inv.resume (inv : Inv s) {j : Job} (hj : s.job = some j) : Inv (resume j s) := by
  obtain ⟨cfg, conv, -, par, -⟩ := transfer_frame j.fin j.todo j.got s.unsuspend
  have get (f : Field) : (Machine.resume j s).get f = s.get f := get_congr cfg par f
  obtain ⟨held, frames⟩ := inv.framer.resume hj
  refine ⟨?_, ?_, ?_, ?_, ?_, held, frames⟩
  · exact par.symm ▸ inv.params
  · exact cfg.symm ▸ inv.canonical
  · simp only [ResolutionLegal, get]
    exact inv.resolution
  · exact par.symm ▸ inv.resetLegal
  · rw [ConvCoherent, get]
    exact conv.trans inv.factor

/-- Settles O55: the five cases of a step. -/
theorem everyStepKeepsTheInvariant : Obligations.EveryStepKeepsTheInvariant := by
  intro s t inv h
  rcases step_next_cases h with ⟨j, hj, rfl⟩ | ⟨-, -, rfl⟩ | ⟨rest, -, -, rfl⟩ | ⟨r, rest, i, -, -, -, runs⟩ |
    ⟨r, rest, sel, -, -, -, rfl⟩
  · exact inv.resume hj
  · exact inv
  · exact inv.resetEvent
  · exact inv_of_exec inv.taken runs
  · exact inv.selectNothing

/-! ### Raw codes no setter stores -/

theorem storedCodes_congr (h : ∀ f, t.get f = s.get f) (codes : StoredCodes s) : StoredCodes t := by
  simp only [StoredCodes, h]
  exact codes

theorem offset_not_mem_fieldsOf (other : ∀ x, i ≠ .setOffset x) :
    Field.offsNeg20 ∉ fieldsOf i ∧ Field.offsPos20 ∉ fieldsOf i := by
  cases i
  case setOffset x => exact absurd rfl (other x)
  all_goals simp [fieldsOf]

theorem stopFields_not_mem_fieldsOf {ch : Int} {bit flag : Field} (hf : stopFields ch = some (bit, flag))
    (other : ∀ ch e, i ≠ .setStopEdge ch e) : bit ∉ fieldsOf i ∧ flag ∉ fieldsOf i := by
  rcases stopFields_eq_some_iff.1 hf with ⟨-, rfl, rfl⟩ | ⟨-, rfl, rfl⟩
  all_goals
    cases i
    case setStopEdge ch e => exact absurd rfl (other ch e)
    all_goals simp [fieldsOf]

/-- Different channels have different bits. -/
theorem stopFields_apart {ch ch' : Int} {bit flag bit' flag' : Field} (hf : stopFields ch = some (bit, flag))
    (hf' : stopFields ch' = some (bit', flag')) (h : ch ≠ ch') : bit ∉ [bit', flag'] ∧ flag ∉ [bit', flag'] := by
  rcases stopFields_eq_some_iff.1 hf with ⟨rfl, rfl, rfl⟩ | ⟨rfl, rfl, rfl⟩ <;>
    rcases stopFields_eq_some_iff.1 hf' with ⟨rfl, rfl, rfl⟩ | ⟨rfl, rfl, rfl⟩
  case inl.inl | inr.inr => exact absurd rfl h
  all_goals decide

theorem hitsField_not_mem_fieldsOf {ch : Int} {f : Field} (hf : hitsField ch = some f) (other : ∀ ch n, i ≠ .setHits ch n) :
    f ∉ fieldsOf i := by
  rcases hitsField_eq_some_iff.1 hf with ⟨-, rfl⟩ | ⟨-, rfl⟩
  all_goals
    cases i
    case setHits ch n => exact absurd rfl (other ch n)
    all_goals simp [fieldsOf]

section
variable (hp : s.par.ok = true) (h : exec i s = .next t)
include hp h

/-- The encoder of SET_OFFSET never sets both flags (45_signed_offset.md R206). -/
theorem offsetFlags_of_exec (codes : ¬ (s.get .offsNeg20 = 1 ∧ s.get .offsPos20 = 1)) :
    ¬ (t.get .offsNeg20 = 1 ∧ t.get .offsPos20 = 1) := by
  have hi := idle_of_exec_next h
  by_cases setter : ∃ x, i = .setOffset x
  · obtain ⟨x, rfl⟩ := setter
    by_cases accepted : -36 ≤ x ∧ x ≤ 35
    · obtain ⟨hlo, hhi⟩ := accepted
      have effect := of_exec_next h (setOffset_effect hi hp hlo hhi)
      have neg : t.get .offsNeg20 = (encodeOffset x).neg20 := effect.get_written (by simp)
      have pos : t.get .offsPos20 = (encodeOffset x).pos20 := effect.get_written (by simp)
      rw [neg, pos]
      exact encodeOffset_flags hlo hhi
    · obtain rfl : s.ret none = t := by simpa [exec_setOffset_of_outside hi (x := x) (by omega)] using h
      exact codes
  · obtain ⟨neg, pos⟩ := offset_not_mem_fieldsOf fun x e => setter ⟨x, e⟩
    rwa [get_of_exec hp h neg, get_of_exec hp h pos]

/-- SET_STOP_EDGE writes the two bits of a setting, which never has both (44_edge_sensitivity.md R180). -/
theorem stopEdgeBits_of_exec {ch : Int} {bit flag : Field} (hf : stopFields ch = some (bit, flag))
    (codes : ¬ (s.get bit = 1 ∧ s.get flag = 1)) : ¬ (t.get bit = 1 ∧ t.get flag = 1) := by
  have hi := idle_of_exec_next h
  by_cases setter : ∃ ch' e, i = .setStopEdge ch' e
  · obtain ⟨ch', e, rfl⟩ := setter
    by_cases rejected : (ch' ≠ 1 ∧ ch' ≠ 2) ∨ (e ≠ 0 ∧ e ≠ 1 ∧ e ≠ 2)
    · obtain rfl : s.ret none = t := by simpa [exec_setStopEdge_of_outside hi rejected] using h
      exact codes
    · obtain ⟨bit', flag', hf'⟩ : ∃ bit' flag', stopFields ch' = some (bit', flag') := by
        rcases (by omega : ch' = 1 ∨ ch' = 2) with rfl | rfl <;> exact ⟨_, _, rfl⟩
      obtain ⟨edge, he⟩ : ∃ edge, edgeOfCode e = some edge := by
        rcases (by omega : e = 0 ∨ e = 1 ∨ e = 2) with rfl | rfl | rfl <;> exact ⟨_, rfl⟩
      obtain rfl : ((s.put bit' (edgeBits edge).1).put flag' (edgeBits edge).2).ret none = t := by
        simpa [exec_setStopEdge_of_edge hi hf' he] using h
      have effect := setterEffect_stopEdge hp hf' edge
      by_cases same : ch' = ch
      · obtain ⟨rfl, rfl⟩ : bit' = bit ∧ flag' = flag := by simpa [same, hf, eq_comm] using hf'
        rw [effect.get_written List.mem_cons_self,
          effect.get_written (List.mem_cons_of_mem _ (List.mem_singleton_self _))]
        exact edgeBits_not_both edge
      · obtain ⟨bitKept, flagKept⟩ := stopFields_apart hf hf' (Ne.symm same)
        rwa [effect.get_kept bitKept, effect.get_kept flagKept]
  · obtain ⟨hbit, hflag⟩ := stopFields_not_mem_fieldsOf hf fun ch e eq => setter ⟨ch, e, eq⟩
    rwa [get_of_exec hp h hbit, get_of_exec hp h hflag]

/-- SET_HITS stores counts of 0 to 4 (43_hits_and_alu_operators.md R160). -/
theorem hits_le_of_exec {ch : Int} {f : Field} (hf : hitsField ch = some f) (codes : s.get f ≤ 4) : t.get f ≤ 4 := by
  have hi := idle_of_exec_next h
  by_cases setter : ∃ ch' n, i = .setHits ch' n
  · obtain ⟨ch', n, rfl⟩ := setter
    by_cases rejected : (ch' ≠ 1 ∧ ch' ≠ 2) ∨ n < 0 ∨ 4 < n
    · obtain rfl : s.ret none = t := by simpa [exec_setHits_of_outside hi rejected] using h
      exact codes
    · obtain ⟨g, hg⟩ : ∃ g, hitsField ch' = some g := by
        rcases (by omega : ch' = 1 ∨ ch' = 2) with rfl | rfl <;> exact ⟨_, rfl⟩
      obtain rfl : (s.put g n).ret none = t := by
        simpa [exec_setHits_of_field hi hg (n := n) (by omega) (by omega)] using h
      have effect := setterEffect_hits hp hg (n := n) (by omega) (by omega)
      by_cases same : f = g
      · rw [same, effect.get_written (List.mem_singleton_self _)]
        omega
      · rwa [effect.get_kept (by simpa using same)]
  · rwa [get_of_exec hp h (hitsField_not_mem_fieldsOf hf fun ch n eq => setter ⟨ch, n, eq⟩)]

/-- Each code is kept by the setter of its fields, and by every instruction that does not write them. -/
theorem storedCodes_of_exec (codes : StoredCodes s) : StoredCodes t := by
  obtain ⟨offset, stop1, stop2, hits1, hits2⟩ := codes
  exact ⟨offsetFlags_of_exec hp h offset, stopEdgeBits_of_exec hp h (ch := 1) rfl stop1,
    stopEdgeBits_of_exec hp h (ch := 2) rfl stop2, hits_le_of_exec hp h (ch := 1) rfl hits1,
    hits_le_of_exec hp h (ch := 2) rfl hits2⟩

end

/-- Settles O56: the five cases of a step; the block's reset brings in the codes of the reset image. -/
theorem everyStepKeepsStoredCodes : Obligations.EveryStepKeepsStoredCodes := by
  intro s t hp reset codes h
  rcases step_next_cases h with ⟨j, -, rfl⟩ | ⟨-, -, rfl⟩ | ⟨rest, -, -, rfl⟩ | ⟨r, rest, i, -, -, -, runs⟩ |
    ⟨r, rest, sel, -, -, -, rfl⟩
  · obtain ⟨cfg, -, -, par, -⟩ := transfer_frame j.fin j.todo j.got s.unsuspend
    exact storedCodes_congr (get_congr cfg par) codes
  · exact codes
  · exact reset
  · exact storedCodes_of_exec (s := s.taken) hp runs codes
  · exact codes

end Sys2Proof.Machine
end
